-- ==== Sys2Proof/Word.lean ====
section
/-! DEFINITION. The bit widths of PSMUX: `SEL` (SELW = 3), masks, operands and tick vectors (OUTW = NPAT = 4) and
command words (8), 00_scope.md R6, R7 and 30_encoding.md R60. -/

namespace Sys2Proof

/-- A 4-bit value: a mask, an operand `arg`, a tick vector, `OUT`. Bit `k-1` is line, or source, `k` (R8). -/
abbrev Nibble := BitVec 4

/-- The width of the selector register `SEL` (R22). -/
abbrev Sel := BitVec 3

/-- A command word (R61). -/
abbrev CmdWord := BitVec 8

end Sys2Proof
end

