-- ==== Sys2Proof/Config.lean ====
section
/-! DEFINITION. The implementation parameters of 00_scope.md R6. The fixed ones (NPAT = 4, OUTW = 4, SELW = 3) are the
widths of Word.lean. The others are one plain record, "a model takes the OPEN-default ones as arguments", with the
spec's defaults. Nothing of this machine needs a free value. -/

namespace Sys2Proof

/-- `LINE_POL`: the electrical sense of an active line (R6, R32). -/
inductive Polarity where
  | activeHigh
  | activeLow
  deriving DecidableEq, Repr

/-- The parameters CNTW, SEED1, SEED2, OUT_INIT and LINE_POL of R6. -/
structure Params where
  cntw    : Nat
  seed1   : Bool
  seed2   : Bool
  outInit : Nibble
  linePol : Polarity
  deriving DecidableEq, Repr

/-- The defaults of R6: "the defaults are the values this spec decides". DESIGN CHOICE of the spec (D11 to D14). -/
def Params.defaults : Params :=
  { cntw := 2, seed1 := true, seed2 := true, outInit := 0b0000, linePol := .activeHigh }

/-- `CNTW < 2` is not allowed (R127); every value of the other parameters is. -/
abbrev Params.Ok (p : Params) : Prop := 2 ≤ p.cntw

end Sys2Proof
end

