-- ==== Sys2Proof/Syntax.lean ====
section
/-! DEFINITION. The events of 00_scope.md R11 and the instructions: one constructor of `Instr` per row of
opcode_table.json, its arguments the row's operand bits as they stand in the word. -/

namespace Sys2Proof

/-- One event, the input of one step (R11, R60). -/
inductive Event where
  /-- The reset event (70_reset_and_hazards.md R160). -/
  | reset
  /-- A command word on the command port. -/
  | cmd (w : CmdWord)
  /-- A tick vector on the tick port. -/
  | tick (v : Nibble)
  deriving DecidableEq, Repr

/-- The instructions. An operand the spec rejects is still an operand: the word matches its row, and the row's operand
check gives the response (30_encoding.md R63), so each command holds its whole `arg`. -/
inductive Instr where
  /-- SELECT, `0001nnnn` (R100). -/
  | select (n : Nibble)
  /-- STOP_ALL, `0010zzzz` (R101). -/
  | stopAll (z : Nibble)
  /-- ALL_ON, `0011zzzz` (R87). -/
  | allOn (z : Nibble)
  /-- ALL_OFF, `0100zzzz` (R88). -/
  | allOff (z : Nibble)
  /-- SET_ODD, `0101zzzz` (R89). -/
  | setOdd (z : Nibble)
  /-- SET_EVEN, `0110zzzz` (R90). -/
  | setEven (z : Nibble)
  /-- WRMASK, `0111mmmm` (R91). -/
  | wrmask (m : Nibble)
  /-- SETBIT, `1000xxii` (R92). -/
  | setbit (a : Nibble)
  /-- CLRBIT, `1001xxii` (R93). -/
  | clrbit (a : Nibble)
  /-- RESERVED, `0000rrrr` (R65). -/
  | reserved0 (r : Nibble)
  /-- RESERVED, `101rrrrr`: opcodes 0xA and 0xB (R65). -/
  | reservedAB (r : BitVec 5)
  /-- RESERVED, `11rrrrrr`: opcodes 0xC to 0xF (R65). -/
  | reservedCF (r : BitVec 6)
  /-- TICK1, `xxx1`: the whole tick vector, its other bits ignored (R121). -/
  | tick1 (v : Nibble)
  /-- TICK2, `xx1x` (R122). -/
  | tick2 (v : Nibble)
  /-- TICK3, `x1xx` (R123). -/
  | tick3 (v : Nibble)
  /-- TICK4, `1xxx` (R124). -/
  | tick4 (v : Nibble)
  deriving DecidableEq, Repr

/-- The two input formats (R60). -/
inductive PortFormat where
  | cmd
  | tick
  deriving DecidableEq, Repr

/-- The format, and so the port, of an instruction. -/
def Instr.format : Instr → PortFormat
  | .select _ | .stopAll _ | .allOn _ | .allOff _ | .setOdd _ | .setEven _ | .wrmask _ | .setbit _ | .clrbit _
  | .reserved0 _ | .reservedAB _ | .reservedCF _ => .cmd
  | .tick1 _ | .tick2 _ | .tick3 _ | .tick4 _ => .tick

/-- The number of the tick source a TICK row belongs to, 0 for a command. -/
def Instr.source : Instr → Nat
  | .tick1 _ => 1
  | .tick2 _ => 2
  | .tick3 _ => 3
  | .tick4 _ => 4
  | .select _ | .stopAll _ | .allOn _ | .allOff _ | .setOdd _ | .setEven _ | .wrmask _ | .setbit _ | .clrbit _
  | .reserved0 _ | .reservedAB _ | .reservedCF _ => 0

end Sys2Proof
end

