-- ==== Sys2Proof/WellFormed.lean ====
section
/-! DEFINITION. Which instructions are legal: the operand ranges of 30_encoding.md R62 and R65 and the tick bit of R66.
A command that fails a check still decodes and still runs: the machine answers it with a response code. -/

namespace Sys2Proof

/-- The checks a well-formed instruction passes. -/
inductive FormCheck where
  /-- SELECT: `n` is in 1..4 (form N). -/
  | patternIndex
  /-- A command without operand: `arg` is `0b0000` (form Z). -/
  | zeroOperand
  /-- SETBIT and CLRBIT: `arg[3:2]` is `0b00` (form I). -/
  | bitIndex
  /-- No reserved opcode (R65). -/
  | reservedOpcode
  /-- TICKk: bit `k-1` of the vector is 1 (R66). -/
  | tickBit
  deriving DecidableEq, Repr

/-- The check that holds or is reported by name. -/
def FormCheck.unless (c : FormCheck) (holds : Bool) : Option FormCheck := if holds then none else some c

/-- The first check an instruction fails. -/
def Instr.failedCheck : Instr → Option FormCheck
  | .select n => FormCheck.patternIndex.unless (1 ≤ n.toNat && n.toNat ≤ 4)
  | .stopAll z => FormCheck.zeroOperand.unless (z == 0)
  | .allOn z => FormCheck.zeroOperand.unless (z == 0)
  | .allOff z => FormCheck.zeroOperand.unless (z == 0)
  | .setOdd z => FormCheck.zeroOperand.unless (z == 0)
  | .setEven z => FormCheck.zeroOperand.unless (z == 0)
  | .wrmask _ => none
  | .setbit a => FormCheck.bitIndex.unless (a.toNat < 4)
  | .clrbit a => FormCheck.bitIndex.unless (a.toNat < 4)
  | .reserved0 _ => some .reservedOpcode
  | .reservedAB _ => some .reservedOpcode
  | .reservedCF _ => some .reservedOpcode
  | .tick1 v => FormCheck.tickBit.unless (v.getLsbD 0)
  | .tick2 v => FormCheck.tickBit.unless (v.getLsbD 1)
  | .tick3 v => FormCheck.tickBit.unless (v.getLsbD 2)
  | .tick4 v => FormCheck.tickBit.unless (v.getLsbD 3)

/-- A legal instruction: one of the 33 legal command words (R65), or a tick with its own bit set (R66). -/
abbrev Instr.WellFormed (i : Instr) : Prop := i.failedCheck = none

/-- An instruction that some input encodes: every command does, legal or not; a TICK row needs its own bit. -/
abbrev Instr.Encodable (i : Instr) : Prop := i.failedCheck ≠ some .tickBit

end Sys2Proof
end

