-- ==== Sys2Proof/Decode.lean ====
section
/-! DEFINITION. The decoder of the command port (30_encoding.md R61 to R65), total on all 256 words; the resolution of a
tick vector against `SEL` (R66); the encoder after them; the match and mask of each row of opcode_table.json; and
`decodeTableWord`, the decoder asked with a table word. -/

namespace Sys2Proof

/-- `op = w[7:4]` (R61). -/
def opField (w : CmdWord) : Nibble := w.extractLsb' 4 4

/-- `arg = w[3:0]` (R61). -/
def argField (w : CmdWord) : Nibble := w.extractLsb' 0 4

/-- The opcode map (R63). All 16 opcodes stand in it; the last line is 0xC to 0xF, and a reserved word decodes to its
own RESERVED row, never to a neighbour. -/
def decodeCmd (w : CmdWord) : Instr :=
  match (opField w).toNat with
  | 0x0 => .reserved0 (argField w)
  | 0x1 => .select (argField w)
  | 0x2 => .stopAll (argField w)
  | 0x3 => .allOn (argField w)
  | 0x4 => .allOff (argField w)
  | 0x5 => .setOdd (argField w)
  | 0x6 => .setEven (argField w)
  | 0x7 => .wrmask (argField w)
  | 0x8 => .setbit (argField w)
  | 0x9 => .clrbit (argField w)
  | 0xA => .reservedAB (w.extractLsb' 0 5)
  | 0xB => .reservedAB (w.extractLsb' 0 5)
  | _   => .reservedCF (w.extractLsb' 0 6)

/-- The tick event that a vector is while `SEL` has the value `sel` (R66): only bit `SEL-1` is looked at, and a vector
without it, or any vector while `SEL` is 0, is no TICK event. `SEL` never holds 5, 6 or 7 (R22). -/
def decodeTick (sel : Sel) (v : Nibble) : Option Instr :=
  match sel.toNat with
  | 1 => if v.getLsbD 0 then some (.tick1 v) else none
  | 2 => if v.getLsbD 1 then some (.tick2 v) else none
  | 3 => if v.getLsbD 2 then some (.tick3 v) else none
  | 4 => if v.getLsbD 3 then some (.tick4 v) else none
  | _ => none

/-- The instruction an event is. The port tells the format, never the bits (R67); a reset is no instruction. -/
def decode (sel : Sel) : Event → Option Instr
  | .reset => none
  | .cmd w => some (decodeCmd w)
  | .tick v => decodeTick sel v

/-- The encoder, from the bit patterns of R63 and R66. -/
def Instr.encode : Instr → Event
  | .select n => .cmd (0b0001#4 ++ n)
  | .stopAll z => .cmd (0b0010#4 ++ z)
  | .allOn z => .cmd (0b0011#4 ++ z)
  | .allOff z => .cmd (0b0100#4 ++ z)
  | .setOdd z => .cmd (0b0101#4 ++ z)
  | .setEven z => .cmd (0b0110#4 ++ z)
  | .wrmask m => .cmd (0b0111#4 ++ m)
  | .setbit a => .cmd (0b1000#4 ++ a)
  | .clrbit a => .cmd (0b1001#4 ++ a)
  | .reserved0 r => .cmd (0b0000#4 ++ r)
  | .reservedAB r => .cmd (0b101#3 ++ r)
  | .reservedCF r => .cmd (0b11#2 ++ r)
  | .tick1 v => .tick v
  | .tick2 v => .tick v
  | .tick3 v => .tick v
  | .tick4 v => .tick v

/-- The value of `SEL` while which a TICK row's tick is accepted: its source number (R66). -/
def Instr.ownSel (i : Instr) : Sel := BitVec.ofNat 3 i.source

/-- `mask` and `match` of the instruction's row in opcode_table.json, a tick row's as 8-bit numbers too. -/
def Instr.tableRow : Instr → CmdWord × CmdWord
  | .select _ => (0xF0, 0x10)
  | .stopAll _ => (0xF0, 0x20)
  | .allOn _ => (0xF0, 0x30)
  | .allOff _ => (0xF0, 0x40)
  | .setOdd _ => (0xF0, 0x50)
  | .setEven _ => (0xF0, 0x60)
  | .wrmask _ => (0xF0, 0x70)
  | .setbit _ => (0xF0, 0x80)
  | .clrbit _ => (0xF0, 0x90)
  | .reserved0 _ => (0xF0, 0x00)
  | .reservedAB _ => (0xE0, 0xA0)
  | .reservedCF _ => (0xC0, 0xC0)
  | .tick1 _ => (0x1, 0x1)
  | .tick2 _ => (0x2, 0x2)
  | .tick3 _ => (0x4, 0x4)
  | .tick4 _ => (0x8, 0x8)

/-- The bits an event carries, as 8 bits. -/
def Event.bits : Event → CmdWord
  | .reset => 0
  | .cmd w => w
  | .tick v => v.setWidth 8

/-- The event a table word stands for. The table's words do not say their port, and the decoder tells a format from its
port (R67), so this question needs a choice. DESIGN CHOICE (log 8), safe: it is made here for the table's words only,
and the machine never asks it. A word of 4 bits is a tick vector; of the 8-bit words, 0x01, 0x02, 0x04 and 0x08 are the
one-source ticks of the four TICK rows, and every other word is a command word. -/
def tableEvent (nbits w : Nat) : Option Event :=
  if nbits = 4 then
    if 0 < w ∧ w < 16 then some (.tick (BitVec.ofNat 4 w)) else none
  else if nbits = 8 then
    if w = 1 ∨ w = 2 ∨ w = 4 ∨ w = 8 then some (.tick (BitVec.ofNat 4 w))
    else if w < 256 then some (.cmd (BitVec.ofNat 8 w)) else none
  else none

/-- The selector value under which the event of a table word is looked at: for a tick vector its lowest source. -/
def tableSel : Event → Option Sel
  | .reset => none
  | .cmd _ => none
  | .tick v =>
    if v.getLsbD 0 then some 1 else if v.getLsbD 1 then some 2 else if v.getLsbD 2 then some 3
    else if v.getLsbD 3 then some 4 else none

/-- The decoder's answer to a word numbered as opcode_table.json numbers it. -/
def decodeTableWord (nbits w : Nat) : Option Instr :=
  match tableEvent nbits w with
  | none => none
  | some e => decode ((tableSel e).getD 0) e

end Sys2Proof
end

