-- ==== Sys2Proof/Machine/State.lean ====
section
/-! DEFINITION. The state: the six elements of 10_state.md R36 as `Regs`, "these fields and no others"; and beside them
what the one-argument step of the host's interface needs in plain data: the parameters (R6), the inputs still to come
(R11, R39) and the outputs of the last step (R34, R35). -/

namespace Sys2Proof.Machine

/-- The complete state of PSMUX (R36). -/
structure Regs where
  /-- `SEL`, the pattern selector, legal values 0..4 (R22). -/
  sel : Sel
  /-- `F1`, the toggle flag of pattern 1 (R25). -/
  f1  : Bool
  /-- `F2`, the toggle flag of pattern 2 (R26). -/
  f2  : Bool
  /-- `C3`, the tick counter of pattern 3, below `2^CNTW` (R27). A number, as CNTW is a parameter (log 12). -/
  c3  : Nat
  /-- `C4`, the tick counter of pattern 4, below `2^CNTW` (R28). -/
  c4  : Nat
  /-- `OUT`, the output register (R30). -/
  out : Nibble
  deriving DecidableEq, Repr

/-- The response codes (60_exceptions.md R141). -/
inductive Resp where
  | ok
  | badIndex
  | badOpcode
  | badArg
  deriving DecidableEq, Repr

/-- The per-step outputs that are not functions of the state: `tmr_start` (R34), and `resp`, absent in a step that is
no command (R35). They hold those of the last step and no step reads them. DESIGN CHOICE (log 3), safe. -/
structure Outputs where
  tmrStart : Nibble
  resp     : Option Resp
  deriving DecidableEq, Repr

/-- The input ports in one clock cycle (R39). `clk` is the passing from one cycle to the next. -/
structure PortInputs where
  rst      : Bool
  cmdValid : Bool
  cmdData  : CmdWord
  tick     : Nibble
  deriving DecidableEq, Repr

/-- The machine with its parameters and its environment's inputs. -/
structure State where
  /-- The parameters (R6); no step writes them. DESIGN CHOICE (log 4), unsafe for a claim that names reset's values. -/
  par     : Params
  /-- The six state elements. -/
  regs    : Regs
  /-- The events of the current clock cycle that are still to be processed, first first. DESIGN CHOICE (log 1), safe. -/
  pending : List Event
  /-- The port inputs of the cycles still to come, next first. DESIGN CHOICE (log 1), safe. -/
  cycles  : List PortInputs
  /-- The outputs of the last step. -/
  outputs : Outputs
  deriving DecidableEq, Repr

/-- No event has a fault outcome (60_exceptions.md R156): nothing raises a fault, so the type is empty. Safe for the
machine's events; a damaged line of a real device is out of scope (00_scope.md R4 (f), log 15). -/
inductive Fault where
  deriving DecidableEq, Repr

/-- Why the model could refuse. -/
inductive Refusal where
  /-- Raised by an arm of `exec` whose instruction has no meaning yet; safe. No arm raises it: every row is modelled. -/
  | notModelled (mnemonic : String)
  deriving DecidableEq, Repr

/-- Right after reset (70_reset_and_hazards.md R160), with the default parameters, and no input waiting. -/
def State.reset : State :=
  { par := Params.defaults
    regs := { sel := 0, f1 := true, f2 := true, c3 := 0, c4 := 0, out := 0b0000 }
    pending := []
    cycles := []
    outputs := { tmrStart := 0b0000, resp := none } }

end Sys2Proof.Machine
end

