-- ==== Sys2Proof/Machine/Flags.lean ====
section
/-! DEFINITION. What a render computes: the toggle of a flag and the post-increment of a counter (42_render.md R121 to
R124). No other operation touches a flag or a counter but reset (10_state.md R38). -/

namespace Sys2Proof.Machine

/-- `!f`, the toggle of a pattern flag (R121, R122). -/
def toggle (f : Bool) : Bool := !f

/-- `(c + 1) mod 2^CNTW` (R123, R124). -/
def countUp (cntw c : Nat) : Nat := (c + 1) % 2 ^ cntw

/-- Pattern 3's mask, `(0b0001 << (c mod 4))[3:0]` (R123). -/
def maskUp (c : Nat) : Nibble := 0b0001#4 <<< (c % 4)

/-- Pattern 4's mask, `0b1000 >> (c mod 4)` (R124). -/
def maskDown (c : Nat) : Nibble := 0b1000#4 >>> (c % 4)

end Sys2Proof.Machine
end

