-- ==== Sys2Proof/Machine/Operands.lean ====
section
/-! DEFINITION. The operand forms N, M, I and Z (30_encoding.md R62, R69) with their checks in the words of R64: the
operand, or the response code that rejects the command. Every opcode has one check, so no word fails two
(60_exceptions.md R143). -/

namespace Sys2Proof.Machine

/-- Form N: a pattern number, `1 <= arg <= 4` checked on all four bits. -/
def formN (arg : Nibble) : Except Resp Nibble :=
  if 1 ≤ arg.toNat ∧ arg.toNat ≤ 4 then .ok arg else .error .badIndex

/-- Form M: a mask, every value legal. -/
def formM (arg : Nibble) : Except Resp Nibble := .ok arg

/-- Form I: a bit index `i = arg[1:0]`, where `arg[3:2]` must be `0b00`. -/
def formI (arg : Nibble) : Except Resp (BitVec 2) :=
  if arg.extractLsb' 2 2 = 0b00#2 then .ok (arg.extractLsb' 0 2) else .error .badArg

/-- Form Z: no operand, `arg` must be `0b0000`. -/
def formZ (arg : Nibble) : Except Resp Unit :=
  if arg = 0b0000#4 then .ok () else .error .badArg

/-- A reserved opcode: rejected whatever the operand bits (R65). -/
def formReserved : Except Resp Unit := .error .badOpcode

/-- The 2-bit code of a response (60_exceptions.md R141). -/
def Resp.code : Resp → BitVec 2
  | .ok => 0b00
  | .badIndex => 0b01
  | .badOpcode => 0b10
  | .badArg => 0b11

end Sys2Proof.Machine
end

