-- ==== Sys2Proof/Machine/Ops.lean ====
section
/-! DEFINITION. The shared operations: the writes of the state elements (00_scope.md R10), the output register's write
port and its fixed operations (40_output_surface.md R80 to R86), the reset event (70_reset_and_hazards.md R160), the
performing or rejecting of a command (60_exceptions.md R142; PSMUX has no exception entry, R148), and the tick gate
(42_render.md R120). -/

namespace Sys2Proof.Machine

/-- The outcome of a meaning. -/
abbrev Result := Host.Outcome State Fault Refusal

/-- `onehot4(s)` (R9): bit `s-1` for s in 1..4, and 0 for s = 0. For s in 5..7, which `SEL` never holds and R9 does not
give, 0 as well, since `EN[k-1]` is 1 exactly when `SEL = k` (R24). DEDUCED (log 5), unsafe only in states that the
invariant rules out. -/
def onehot4 (s : Nat) : Nibble :=
  match s with
  | 1 => 0b0001
  | 2 => 0b0010
  | 3 => 0b0100
  | 4 => 0b1000
  | _ => 0b0000

/-- `SEL <- v`. -/
def State.setSel (v : Sel) (s : State) : State := { s with regs := { s.regs with sel := v } }

/-- `F1 <- v`. -/
def State.setF1 (v : Bool) (s : State) : State := { s with regs := { s.regs with f1 := v } }

/-- `F2 <- v`. -/
def State.setF2 (v : Bool) (s : State) : State := { s with regs := { s.regs with f2 := v } }

/-- `C3 <- v`. -/
def State.setC3 (v : Nat) (s : State) : State := { s with regs := { s.regs with c3 := v } }

/-- `C4 <- v`. -/
def State.setC4 (v : Nat) (s : State) : State := { s with regs := { s.regs with c4 := v } }

/-- `OutWrite(m)` (R80): `OUT <- m`, all four bits in one write (20_memory.md R44). -/
def State.outWrite (m : Nibble) (s : State) : State := { s with regs := { s.regs with out := m } }

/-- `SetAll()` (R81). -/
def State.setAll (s : State) : State := s.outWrite 0b1111

/-- `ClearAll()` (R82). -/
def State.clearAll (s : State) : State := s.outWrite 0b0000

/-- `SetOddLines()` (R83). -/
def State.setOddLines (s : State) : State := s.outWrite 0b0101

/-- `SetEvenLines()` (R84). -/
def State.setEvenLines (s : State) : State := s.outWrite 0b1010

/-- `SetBit(i)` (R85), a read-modify-write of `OUT` within the step. -/
def State.setBit (i : BitVec 2) (s : State) : State := s.outWrite (s.regs.out ||| (0b0001#4 <<< i.toNat))

/-- `ClearBit(i)` (R86). -/
def State.clearBit (i : BitVec 2) (s : State) : State := s.outWrite (s.regs.out &&& ~~~(0b0001#4 <<< i.toNat))

/-- The outputs hold nothing between steps (R34, R35): each step starts with no pulse and no response. -/
def State.beginStep (s : State) : State := { s with outputs := { tmrStart := 0b0000, resp := none } }

/-- `pulse(tmr_start, v)` (R10). -/
def State.pulse (v : Nibble) (s : State) : State := { s with outputs := { s.outputs with tmrStart := v } }

/-- `respond(code)` (R10). -/
def State.respond (c : Resp) (s : State) : State := { s with outputs := { s.outputs with resp := some c } }

/-- `reject(code)` (R10, R142): the response, and the step ends with no element changed and no pulse. -/
def State.reject (c : Resp) (s : State) : State := s.beginStep.respond c

/-- The elements after reset (R160), for any parameters. -/
def resetRegs (p : Params) : Regs :=
  { sel := 0, f1 := p.seed1, f2 := p.seed2, c3 := 0, c4 := 0, out := p.outInit }

/-- The reset event (R160): every element to its reset value, no pulse, no response. The inputs still to come are the
agents' and stay. DEDUCED (log 14), safe. -/
def State.resetEvent (s : State) : State :=
  { s with regs := resetRegs s.par, outputs := { tmrStart := 0b0000, resp := none } }

/-- A command whose operand was checked: rejected with the check's code, or performed and answered OK (R64, R142). -/
def onOperand {α : Type} (operand : Except Resp α) (act : α → State → State) (s : State) : Result :=
  match operand with
  | .error c => .next (s.reject c)
  | .ok a => .next ((act a s.beginStep).respond .ok)

/-- The gate (R120): a tick of source `k` is accepted while `SEL = k` and the vector has its bit. -/
def tickAccepted (k : Nat) (v : Nibble) (s : State) : Bool := s.regs.sel.toNat == k && v.getLsbD (k - 1)

/-- A tick event of source `k`: its render if the gate accepts it, otherwise no effect; no pulse and no response in
either case (R120). -/
def onTick (k : Nat) (v : Nibble) (render : State → State) (s : State) : Result :=
  if tickAccepted k v s then .next (render s.beginStep) else .next s.beginStep

end Sys2Proof.Machine
end

