-- ==== Sys2Proof/Machine/OutputSurface.lean ====
section
/-! DEFINITION. The output surface commands (40_output_surface.md R87 to R93). Each is accepted with any `SEL`, writes
`OUT` and nothing else, and starts no source (R94). -/

namespace Sys2Proof.Machine

/-- ALL_ON (R87). -/
def execAllOn (z : Nibble) (s : State) : Result := onOperand (formZ z) (fun _ t => t.setAll) s

/-- ALL_OFF (R88). -/
def execAllOff (z : Nibble) (s : State) : Result := onOperand (formZ z) (fun _ t => t.clearAll) s

/-- SET_ODD (R89). -/
def execSetOdd (z : Nibble) (s : State) : Result := onOperand (formZ z) (fun _ t => t.setOddLines) s

/-- SET_EVEN (R90). -/
def execSetEven (z : Nibble) (s : State) : Result := onOperand (formZ z) (fun _ t => t.setEvenLines) s

/-- WRMASK m (R91). -/
def execWrmask (m : Nibble) (s : State) : Result := onOperand (formM m) State.outWrite s

/-- SETBIT i (R92). -/
def execSetbit (a : Nibble) (s : State) : Result := onOperand (formI a) State.setBit s

/-- CLRBIT i (R93). -/
def execClrbit (a : Nibble) (s : State) : Result := onOperand (formI a) State.clearBit s

end Sys2Proof.Machine
end

