-- ==== Sys2Proof/Machine/Render.lean ====
section
/-! DEFINITION. The four render state machines (42_render.md R121 to R124) behind the tick gate (R120). The order of
toggle, branch and write is the rules' own. -/

namespace Sys2Proof.Machine

/-- `Render_1()`: toggle `F1` first, then clear all lines on 1 and set all on 0. The apparent inversion is normative
(R121). -/
def render1 (s : State) : State :=
  let t := s.setF1 (toggle s.regs.f1)
  if t.regs.f1 then t.clearAll else t.setAll

/-- `Render_2()`: toggle `F2` first, then even lines on 1 and odd lines on 0 (R122). -/
def render2 (s : State) : State :=
  let t := s.setF2 (toggle s.regs.f2)
  if t.regs.f2 then t.setEvenLines else t.setOddLines

/-- `Render_3()`: the mask of the counter before its increment (R123). -/
def render3 (s : State) : State :=
  (s.outWrite (maskUp s.regs.c3)).setC3 (countUp s.par.cntw s.regs.c3)

/-- `Render_4()` (R124). -/
def render4 (s : State) : State :=
  (s.outWrite (maskDown s.regs.c4)).setC4 (countUp s.par.cntw s.regs.c4)

/-- TICK1 (R120, R121). -/
def execTick1 (v : Nibble) (s : State) : Result := onTick 1 v render1 s

/-- TICK2 (R120, R122). -/
def execTick2 (v : Nibble) (s : State) : Result := onTick 2 v render2 s

/-- TICK3 (R120, R123). -/
def execTick3 (v : Nibble) (s : State) : Result := onTick 3 v render3 s

/-- TICK4 (R120, R124). -/
def execTick4 (v : Nibble) (s : State) : Result := onTick 4 v render4 s

end Sys2Proof.Machine
end

