-- ==== Sys2Proof/Machine/Reserved.lean ====
section
/-! DEFINITION. The reserved opcodes: rejected with BAD_OPCODE and without effect, a defined outcome and not a refusal of
the run (30_encoding.md R65, 93_implementation_defined.md U12, log 10). -/

namespace Sys2Proof.Machine

/-- Opcode 0x0 (R65). -/
def execReserved0 (_r : Nibble) (s : State) : Result := onOperand formReserved (fun _ t => t) s

/-- Opcodes 0xA and 0xB (R65). -/
def execReservedAB (_r : BitVec 5) (s : State) : Result := onOperand formReserved (fun _ t => t) s

/-- Opcodes 0xC to 0xF (R65). -/
def execReservedCF (_r : BitVec 6) (s : State) : Result := onOperand formReserved (fun _ t => t) s

end Sys2Proof.Machine
end

