-- ==== Sys2Proof/Machine/Selection.lean ====
section
/-! DEFINITION. The selector commands (41_selection.md R100, R101). `EN` and `tmr_run` follow `SEL`. -/

namespace Sys2Proof.Machine

/-- SELECT n (R100): the one write of `SEL` is both "stop all" and "start n", and source n's start is pulsed. -/
def execSelect (n : Nibble) (s : State) : Result :=
  onOperand (formN n) (fun m t => (t.setSel (m.extractLsb' 0 3)).pulse (onehot4 m.toNat)) s

/-- STOP_ALL (R101): `SEL <- 0`; `OUT` is not cleared. -/
def execStopAll (z : Nibble) (s : State) : Result := onOperand (formZ z) (fun _ t => t.setSel 0) s

end Sys2Proof.Machine
end

