-- ==== Sys2Proof/Machine/Dispatch.lean ====
section
/-! DEFINITION. One arm per instruction. -/

namespace Sys2Proof.Machine

def exec (i : Instr) (s : State) : Host.Outcome State Fault Refusal :=
  match i with
  | .select n => Sys2Proof.Machine.execSelect n s
  | .stopAll z => Sys2Proof.Machine.execStopAll z s
  | .allOn z => Sys2Proof.Machine.execAllOn z s
  | .allOff z => Sys2Proof.Machine.execAllOff z s
  | .setOdd z => Sys2Proof.Machine.execSetOdd z s
  | .setEven z => Sys2Proof.Machine.execSetEven z s
  | .wrmask m => Sys2Proof.Machine.execWrmask m s
  | .setbit a => Sys2Proof.Machine.execSetbit a s
  | .clrbit a => Sys2Proof.Machine.execClrbit a s
  | .reserved0 r => Sys2Proof.Machine.execReserved0 r s
  | .reservedAB r => Sys2Proof.Machine.execReservedAB r s
  | .reservedCF r => Sys2Proof.Machine.execReservedCF r s
  | .tick1 v => Sys2Proof.Machine.execTick1 v s
  | .tick2 v => Sys2Proof.Machine.execTick2 v s
  | .tick3 v => Sys2Proof.Machine.execTick3 v s
  | .tick4 v => Sys2Proof.Machine.execTick4 v s

end Sys2Proof.Machine
end

