-- ==== Sys2Proof/Machine/Ports.lean ====
section
/-! DEFINITION. The ports (10_state.md R39): the derived outputs `EN`, `tmr_run`, `line`, `resp_valid`, `resp_code`, and
the events of a clock cycle in their order (60_exceptions.md R146). A cycle's outputs are those of the state when no
event of it is pending any more (log 6). -/

namespace Sys2Proof.Machine

/-- `EN[3:0]`, the tick-enable vector (R24): not stored. -/
def State.en (s : State) : Nibble := onehot4 s.regs.sel.toNat

/-- `tmr_run[3:0]` (R33). -/
def State.tmrRun (s : State) : Nibble := s.en

/-- The level the driver gives a bit of `OUT` (R32). -/
def polarityLevel (p : Polarity) (b : Bool) : Bool :=
  match p with
  | .activeHigh => b
  | .activeLow => !b

/-- `level(k)`, the level of line `k` (R32). -/
def State.level (s : State) (k : Nat) : Bool := polarityLevel s.par.linePol (s.regs.out.getLsbD (k - 1))

/-- `line[3:0]`: `line[k-1] = level(k)` (R39). -/
def State.line (s : State) : Nibble :=
  BitVec.ofBool (s.level 4) ++ BitVec.ofBool (s.level 3) ++ BitVec.ofBool (s.level 2) ++ BitVec.ofBool (s.level 1)

/-- `resp_valid` (R39). -/
def State.respValid (s : State) : Bool := s.outputs.resp.isSome

/-- `resp_code` while `resp_valid` is high (R39, R141). The spec gives it no value while `resp_valid` is low, and
neither does the model. DESIGN CHOICE (log 11), safe. -/
def State.respCode (s : State) : Option (BitVec 2) := s.outputs.resp.map Resp.code

/-- The events of a clock cycle, in order (R146): reset alone; else the tick vector, where `0b0000` is no event (R66),
and then the command. -/
def PortInputs.events (c : PortInputs) : List Event :=
  if c.rst then [.reset]
  else (if c.tick = 0b0000#4 then [] else [.tick c.tick]) ++ (if c.cmdValid then [.cmd c.cmdData] else [])

/-- The next event and the state that waits for the rest: the current cycle's next event, or else the first event of
the next clock cycle. A cycle without events, and a machine to which nothing comes, has none. -/
def State.nextEvent (s : State) : Option Event × State :=
  match s.pending with
  | e :: es => (some e, { s with pending := es })
  | [] =>
    match s.cycles with
    | [] => (none, s)
    | c :: cs =>
      match c.events with
      | [] => (none, { s with cycles := cs })
      | e :: es => (some e, { s with pending := es, cycles := cs })

/-- `s` with an event put before all its inputs. -/
def State.withEvent (e : Event) (s : State) : State := { s with pending := e :: s.pending }

end Sys2Proof.Machine
end

