-- ==== Sys2Proof/Machine/Event.lean ====
section
/-! DEFINITION. One step: the next event, processed atomically (00_scope.md R11). -/

namespace Sys2Proof.Machine

/-- An event's effect: reset (R160), the decoded command (30_encoding.md R64), or the tick resolved against `SEL`; a
tick that is dropped changes no element and is not kept for later (42_render.md R120, 60_exceptions.md R145). -/
def runEvent (e : Event) (s : State) : Result :=
  match e with
  | .reset => .next s.resetEvent
  | .cmd w => exec (decodeCmd w) s
  | .tick v =>
    match decodeTick s.regs.sel v with
    | some i => exec i s
    | none => .next s.beginStep

/-- One step: the next event's effect. Without an event no element changes, since PSMUX never initiates a step (R5); the
outputs of the step before end. DEDUCED (log 2), safe. -/
def takeStep (s : State) : Result :=
  match s.nextEvent with
  | (some e, t) => runEvent e t
  | (none, t) => .next t.beginStep

/-- `s` with a table word as its next event, and for a tick vector its pattern selected, so that the gate accepts it. -/
def placeWord (s : State) (nbits w : Nat) : State :=
  match tableEvent nbits w with
  | none => s
  | some e =>
    match tableSel e with
    | none => s.withEvent e
    | some k => (s.setSel k).withEvent e

end Sys2Proof.Machine
end

