-- ==== Sys2Proof/Machine/Step.lean ====
section
/-! DEFINITION. The step, and the placing of one word for the next step. -/

namespace Sys2Proof.Machine

/-- One step of PSMUX. -/
def step (s : State) : Host.Outcome State Fault Refusal := takeStep s

/-- `s` with a table word where `step` takes its next event from. PSMUX fetches no program (R21): a host and the tick
sources bring each event, and this stands for that. DESIGN CHOICE (log 9), safe. -/
def State.withFetchWord (s : State) (nbits w : Nat) : State := placeWord s nbits w

end Sys2Proof.Machine
end

