-- ==== Sys2Proof/Machine/Assembler.lean ====
section
/-! DEFINITION. The assembler syntax of 30_encoding.md R68, from the text of a line to its events: mnemonics, the
source's own names as aliases, `.word`, `TICK`, `TICKV`, `RESET`, comments from `;`, numbers in decimal, `0x` and `0b`,
and the pseudo-instruction `IDLE`. What R68 leaves to a reader of text (white space, letter case, an empty line, the base
of an operand and how many digits it has) is a DESIGN CHOICE (log 13), safe: no step of the machine reads it. -/

namespace Sys2Proof.Machine

/-- The line up to its comment. -/
def stripComment : List Char → List Char
  | [] => []
  | c :: cs => if c = ';' then [] else c :: stripComment cs

/-- The words of a line, parted by spaces and tabs; `word` is the one being read, reversed. -/
def lineWords (word : List Char) : List Char → List (List Char)
  | [] => if word = [] then [] else [word.reverse]
  | c :: cs =>
    if c = ' ' ∨ c = '\t' ∨ c = '\r' then
      (if word = [] then lineWords [] cs else word.reverse :: lineWords [] cs)
    else lineWords (c :: word) cs

/-- The value of a digit, in either letter case. -/
def digitValue (c : Char) : Nat :=
  if '0' ≤ c ∧ c ≤ '9' then c.toNat - '0'.toNat
  else if 'a' ≤ c ∧ c ≤ 'f' then c.toNat - 'a'.toNat + 10
  else if 'A' ≤ c ∧ c ≤ 'F' then c.toNat - 'A'.toNat + 10
  else 16

/-- The number of a string of digits after `acc`, none where a character is no digit of the base. R68 does not say how
many digits an operand may have: any number is taken, leading zeros too. DESIGN CHOICE (log 13), safe. -/
def digits (base acc : Nat) : List Char → Option Nat
  | [] => some acc
  | c :: cs => if digitValue c < base then digits base (base * acc + digitValue c) cs else none

/-- A number: `0x` hexadecimal, `0b` binary, or decimal, of one digit or more, where R68 shows `0xHH` and `0bvvvv` and
gives no count. DESIGN CHOICE (log 13), safe: the value's range is checked, not its digits. -/
def numeral : List Char → Option Nat
  | [] => none
  | '0' :: 'x' :: c :: cs => digits 16 0 (c :: cs)
  | '0' :: 'b' :: c :: cs => digits 2 0 (c :: cs)
  | c :: cs => digits 10 0 (c :: cs)

/-- The lines without an operand. -/
def plainLines : List (String × List Event) :=
  [("STOP_ALL", [.cmd 0x20]), ("stopAll", [.cmd 0x20]),
   ("ALL_ON", [.cmd 0x30]), ("allOn", [.cmd 0x30]), ("setAll", [.cmd 0x30]),
   ("ALL_OFF", [.cmd 0x40]), ("allOff", [.cmd 0x40]), ("clearAll", [.cmd 0x40]),
   ("SET_ODD", [.cmd 0x50]), ("setOddLines", [.cmd 0x50]),
   ("SET_EVEN", [.cmd 0x60]), ("setEvenLines", [.cmd 0x60]),
   ("RESET", [.reset]),
   ("IDLE", [.cmd 0x20, .cmd 0x40])]

/-- A line with an operand: its name, the least and the greatest legal operand, and its event. -/
structure OperandLine where
  name  : String
  least : Nat
  most  : Nat
  event : Nat → Event

/-- The lines with an operand. -/
def operandLines : List OperandLine :=
  [⟨"SELECT", 1, 4, fun n => .cmd (0x10#8 ||| BitVec.ofNat 8 n)⟩,
   ⟨"selectPattern", 1, 4, fun n => .cmd (0x10#8 ||| BitVec.ofNat 8 n)⟩,
   ⟨"WRMASK", 0, 15, fun m => .cmd (0x70#8 ||| BitVec.ofNat 8 m)⟩,
   ⟨"writeMask", 0, 15, fun m => .cmd (0x70#8 ||| BitVec.ofNat 8 m)⟩,
   ⟨"SETBIT", 0, 3, fun i => .cmd (0x80#8 ||| BitVec.ofNat 8 i)⟩,
   ⟨"CLRBIT", 0, 3, fun i => .cmd (0x90#8 ||| BitVec.ofNat 8 i)⟩,
   ⟨".word", 0, 255, fun b => .cmd (BitVec.ofNat 8 b)⟩,
   ⟨"TICK", 1, 4, fun k => .tick (onehot4 k)⟩,
   ⟨"TICKV", 0, 15, fun v => .tick (BitVec.ofNat 4 v)⟩]

/-- The events of a line; none where the assembler refuses it. An empty line has no event. -/
def assembleLine (line : String) : Option (List Event) :=
  match lineWords [] (stripComment line.toList) with
  | [] => some []
  | [m] => (plainLines.find? (fun r => r.1.toList = m)).map (fun r => r.2)
  | [m, a] =>
    match operandLines.find? (fun r => r.name.toList = m), numeral a with
    | some r, some n => if r.least ≤ n ∧ n ≤ r.most then some [r.event n] else none
    | _, _ => none
  | _ => none

/-- The events of a program, one event a line but for `IDLE`; none where a line is refused. -/
def assemble : List String → Option (List Event)
  | [] => some []
  | l :: ls =>
    match assembleLine l, assemble ls with
    | some es, some rest => some (es ++ rest)
    | _, _ => none

end Sys2Proof.Machine
end

