-- ==== Sys2Proof/Safety.lean ====
section
/-! DEFINITION. The terms claims use: the invariant of a run, several steps, and the spec's tables of responses
(60_exceptions.md R141), of writes of `OUT` (R30) and of the render machines (42_render.md R126), written down apart
from the machine's own meanings so that a claim can hold the two together. -/

namespace Sys2Proof.Machine

/-- What every state of a run satisfies: `SEL` holds 0..4 (R22), `CNTW` is at least 2 (R127), and each counter fits its
width (R27, R28). -/
abbrev State.Inv (s : State) : Prop :=
  s.regs.sel.toNat ≤ 4 ∧ s.par.Ok ∧ s.regs.c3 < 2 ^ s.par.cntw ∧ s.regs.c4 < 2 ^ s.par.cntw

/-- `n` steps one after the other. -/
def steps : Nat → State → Result
  | 0, s => .next s
  | n + 1, s =>
    match step s with
    | .next t => steps n t
    | .fault r => .fault r
    | .refused r => .refused r

/-- No event happens in the step and no event's outputs remain: what a step without input leaves (R5, R34, R35). -/
abbrev State.quiet (s : State) : State := { s with outputs := { tmrStart := 0b0000, resp := none } }

/-- The output commands (40_output_surface.md R87 to R93). -/
def isOutputCommand : Instr → Bool
  | .allOn _ | .allOff _ | .setOdd _ | .setEven _ | .wrmask _ | .setbit _ | .clrbit _ => true
  | .select _ | .stopAll _ | .reserved0 _ | .reservedAB _ | .reservedCF _
  | .tick1 _ | .tick2 _ | .tick3 _ | .tick4 _ => false

/-- The response to a command word by the tables of R64 and R141, from the word's numbers alone. -/
def expectedResponse (w : CmdWord) : Resp :=
  let op := w.toNat / 16
  let arg := w.toNat % 16
  if op = 0 ∨ 10 ≤ op then .badOpcode
  else if op = 1 then (if 1 ≤ arg ∧ arg ≤ 4 then .ok else .badIndex)
  else if op = 7 then .ok
  else if op = 8 ∨ op = 9 then (if arg < 4 then .ok else .badArg)
  else (if arg = 0 then .ok else .badArg)

/-- An accepted SELECT of pattern `n`: its event and its range (R100). -/
abbrev IsSelect (n : Nibble) (e : Event) : Prop := 1 ≤ n.toNat ∧ n.toNat ≤ 4 ∧ e = .cmd (0x10#8 ||| n.setWidth 8)

/-- The mask a command word writes to `OUT`, none if it writes none (R87 to R93, R65). -/
def maskOfCmd (out : Nibble) (w : CmdWord) : Option Nibble :=
  match w.toNat / 16, w.toNat % 16 with
  | 3, 0 => some 0b1111
  | 4, 0 => some 0b0000
  | 5, 0 => some 0b0101
  | 6, 0 => some 0b1010
  | 7, m => some (BitVec.ofNat 4 m)
  | 8, i => if i < 4 then some (out ||| (1#4 <<< i)) else none
  | 9, i => if i < 4 then some (out &&& ~~~(1#4 <<< i)) else none
  | _, _ => none

/-- The mask a tick vector writes to `OUT`, none if no tick of it is accepted (R120, R126). -/
def maskOfTick (r : Regs) (v : Nibble) : Option Nibble :=
  match r.sel.toNat with
  | 1 => if v.getLsbD 0 then some (if r.f1 then 0b1111 else 0b0000) else none
  | 2 => if v.getLsbD 1 then some (if r.f2 then 0b0101 else 0b1010) else none
  | 3 => if v.getLsbD 2 then some (1#4 <<< (r.c3 % 4)) else none
  | 4 => if v.getLsbD 3 then some (8#4 >>> (r.c4 % 4)) else none
  | _ => none

/-- The mask an event writes to `OUT` by `OutWrite` (R80), none if it writes none. A reset is no `OutWrite`. -/
def maskWritten (r : Regs) : Event → Option Nibble
  | .reset => none
  | .cmd w => maskOfCmd r.out w
  | .tick v => maskOfTick r v

/-- The last mask written since the last reset in `n` steps from `s`, where `last` was the last before them. -/
def lastMask : Nat → State → Option Nibble → Option Nibble
  | 0, _, last => last
  | n + 1, s, last =>
    match step s with
    | .next t =>
      match s.nextEvent.1 with
      | none => lastMask n t last
      | some .reset => lastMask n t none
      | some e => lastMask n t ((maskWritten s.regs e).or last)
    | .fault _ => last
    | .refused _ => last

/-- One row of R126: a pattern, its state before and after an accepted tick, and the mask written. -/
structure MealyRow where
  pattern : Nat
  before  : Nat
  after   : Nat
  mask    : Nibble
  deriving DecidableEq, Repr

/-- The table of R126. -/
def mealyTable : List MealyRow :=
  [⟨1, 1, 0, 0b1111⟩, ⟨1, 0, 1, 0b0000⟩, ⟨2, 1, 0, 0b0101⟩, ⟨2, 0, 1, 0b1010⟩,
   ⟨3, 0, 1, 0b0001⟩, ⟨3, 1, 2, 0b0010⟩, ⟨3, 2, 3, 0b0100⟩, ⟨3, 3, 0, 0b1000⟩,
   ⟨4, 0, 1, 0b1000⟩, ⟨4, 1, 2, 0b0100⟩, ⟨4, 2, 3, 0b0010⟩, ⟨4, 3, 0, 0b0001⟩]

/-- The number R126 gives a pattern's state: its flag, or its counter modulo 4. -/
def Regs.patternState (r : Regs) (pattern : Nat) : Nat :=
  match pattern with
  | 1 => r.f1.toNat
  | 2 => r.f2.toNat
  | 3 => r.c3 % 4
  | 4 => r.c4 % 4
  | _ => 0

/-- Two machines that differ at most in `CNTW`, both at least 2, with counters that agree modulo 4 (R127). -/
abbrev SameButCounterWidth (s t : State) : Prop :=
  s.par.Ok ∧ t.par.Ok ∧ s.par = { t.par with cntw := s.par.cntw } ∧
  s.regs = { t.regs with c3 := s.regs.c3, c4 := s.regs.c4 } ∧
  s.regs.c3 % 4 = t.regs.c3 % 4 ∧ s.regs.c4 % 4 = t.regs.c4 % 4 ∧
  s.pending = t.pending ∧ s.cycles = t.cycles ∧ s.outputs = t.outputs

/-- The machine with another `LINE_POL`. -/
abbrev State.withPolarity (s : State) (p : Polarity) : State := { s with par := { s.par with linePol := p } }

/-- How many steps a clock cycle takes: its events, or one quiet step. The quiet step is DEDUCED (log 2), safe. -/
def PortInputs.stepCount (c : PortInputs) : Nat := max 1 c.events.length

end Sys2Proof.Machine
end

