-- ==== Sys2Proof/Certificates/Slice0/Obligations.lean ====
section
/-! DEFINITION. The statements for the provers. A reference R<n> in a docstring is the rule the statement formalises. -/

open Sys2Proof Sys2Proof.Machine

/-! ### Encoding -/

/-- Words written out from the patterns of R63 and vectors of R66 decode to the instructions they stand for. -/
def Obligations.SampleWordsDecode : Prop :=
  decodeCmd 0b00010011#8 = .select 3 ∧ decodeCmd 0b00100000#8 = .stopAll 0 ∧ decodeCmd 0b00110000#8 = .allOn 0 ∧
  decodeCmd 0b01111010#8 = .wrmask 0b1010 ∧ decodeCmd 0b10000011#8 = .setbit 3 ∧ decodeCmd 0b10010001#8 = .clrbit 1 ∧
  decodeCmd 0b00000001#8 = .reserved0 1 ∧ decodeCmd 0b10110101#8 = .reservedAB 0b10101 ∧
  decodeCmd 0b11111111#8 = .reservedCF 0b111111 ∧ decodeTick 2 0b0010#4 = some (.tick2 0b0010) ∧
  decodeTick 2 0b0101#4 = none ∧ decodeTick 0 0b1111#4 = none

/-- Decode of encode is the instruction, for every instruction an input encodes and every operand value, legal or not:
a command under every `SEL`, a TICK row while its own pattern is selected (R63, R66). -/
def Obligations.DecodeInvertsEncode : Prop :=
  ∀ i : Instr, i.Encodable →
    (i.format = .cmd → ∀ sel : Sel, decode sel i.encode = some i) ∧
    (i.format = .tick → decode i.ownSel i.encode = some i)

/-- Encode of decode is the event: no bit of a command word or of a tick vector is dropped (R61, R66). -/
def Obligations.EncodeInvertsDecode : Prop :=
  ∀ (sel : Sel) (e : Event) (i : Instr), decode sel e = some i → i.encode = e ∧ i.Encodable

/-- Every 8-bit word matches exactly one command row of the table, the row of the instruction it decodes to (R63). -/
def Obligations.EveryWordMatchesItsRowOnly : Prop :=
  ∀ (w : CmdWord) (i : Instr), i.format = .cmd →
    (w &&& i.tableRow.1 = i.tableRow.2 ↔ i.tableRow = (decodeCmd w).tableRow)

/-! ### A step -/

/-- A step takes its next event and runs the instruction it decodes to: `step` is `exec` at the state from which that
event was taken (R11, R64, R66). -/
def Obligations.StepRunsTheDecodedInstruction : Prop :=
  ∀ (s t : State) (e : Event) (i : Instr),
    s.nextEvent = (some e, t) → decode t.regs.sel e = some i → step s = exec i t

/-- Where the next event comes from: the pending events of the cycle in order, then the next cycle of the ports
(R39, R146); taking it changes no element, parameter or output. How the inputs stand in State is the model's choice
(log 1). -/
def Obligations.EventsAreTakenInOrder : Prop :=
  ∀ s : State,
    (∀ e es, s.pending = e :: es → s.nextEvent = (some e, { s with pending := es })) ∧
    (∀ c cs e es, s.pending = [] → s.cycles = c :: cs → c.events = e :: es →
      s.nextEvent = (some e, { s with pending := es, cycles := cs })) ∧
    (∀ c cs, s.pending = [] → s.cycles = c :: cs → c.events = [] →
      s.nextEvent = (none, { s with cycles := cs })) ∧
    (s.pending = [] → s.cycles = [] → s.nextEvent = (none, s))

/-- Every step of every state completes: no fault, no refusal, whatever the agents do (R156, R157). -/
def Obligations.EveryStepCompletes : Prop := ∀ s : State, ∃ t, step s = .next t

/-- A step without an event changes no element and leaves no pulse and no response (R5). That there is such a step is the
model's (log 2). -/
def Obligations.NoEventNoChange : Prop :=
  ∀ s t : State, s.nextEvent = (none, t) → step s = .next t.quiet ∧ t.regs = s.regs

/-- A step writes no parameter, and of the inputs it takes the next event's and leaves the rest (R6, R48). That both
stand in State is the model's choice (log 1, log 4). -/
def Obligations.StepLeavesParametersAndLaterInputs : Prop :=
  ∀ s t : State, step s = .next t →
    t.par = s.par ∧ t.pending = s.nextEvent.2.pending ∧ t.cycles = s.nextEvent.2.cycles

/-- The outputs of a step hold nothing for the next: the step does not depend on them (R34, R35). -/
def Obligations.StepDoesNotReadOutputs : Prop :=
  ∀ (s : State) (o : Outputs), step { s with outputs := o } = step s

/-! ### Responses -/

/-- Every command word gives exactly one response code, that of the table (R141). -/
def Obligations.EveryCommandGetsItsResponse : Prop :=
  ∀ (w : CmdWord) (s : State), ∃ t, runEvent (.cmd w) s = .next t ∧
    t.respValid = true ∧ t.respCode = some (expectedResponse w).code ∧
    (expectedResponse w).code =
      (if w.toNat / 16 = 0 ∨ 10 ≤ w.toNat / 16 then 0b10#2
       else if w.toNat / 16 = 1 then (if 1 ≤ w.toNat % 16 ∧ w.toNat % 16 ≤ 4 then 0b00#2 else 0b01#2)
       else if (decodeCmd w).WellFormed then 0b00#2 else 0b11#2)

/-- A rejected command changes no element, keeps `tmr_run`, and pulses no source (R142). -/
def Obligations.RejectedCommandChangesNothing : Prop :=
  ∀ (i : Instr) (s : State), i.format = .cmd → ¬ i.WellFormed →
    ∃ c t, c ≠ Resp.ok ∧ exec i s = .next t ∧ t = { s with outputs := { tmrStart := 0b0000, resp := some c } } ∧
      t.regs = s.regs ∧ t.tmrRun = s.tmrRun

/-- The reserved opcodes give BAD_OPCODE and nothing else, by constructor and by word; a bad operand gives BAD_INDEX
(SELECT) or BAD_ARG and nothing else; 33 words are legal and 223 are not (R65). -/
def Obligations.IllegalWordsAreRejected : Prop :=
  (∀ (r : Nibble) (s : State),
    exec (.reserved0 r) s = .next { s with outputs := { tmrStart := 0b0000, resp := some .badOpcode } }) ∧
  (∀ (r : BitVec 5) (s : State),
    exec (.reservedAB r) s = .next { s with outputs := { tmrStart := 0b0000, resp := some .badOpcode } }) ∧
  (∀ (r : BitVec 6) (s : State),
    exec (.reservedCF r) s = .next { s with outputs := { tmrStart := 0b0000, resp := some .badOpcode } }) ∧
  (∀ (w : CmdWord) (s : State), w.toNat / 16 = 0 ∨ 10 ≤ w.toNat / 16 →
    runEvent (.cmd w) s = .next { s with outputs := { tmrStart := 0b0000, resp := some .badOpcode } }) ∧
  (∀ (w : CmdWord) (s : State), 1 ≤ w.toNat / 16 → w.toNat / 16 ≤ 9 → ¬ (decodeCmd w).WellFormed →
    runEvent (.cmd w) s = .next { s with outputs :=
      { tmrStart := 0b0000, resp := some (if w.toNat / 16 = 1 then .badIndex else .badArg) } }) ∧
  ((List.range 256).filter (fun w => decide (decodeCmd (BitVec.ofNat 8 w)).WellFormed)).length = 33 ∧
  ((List.range 256).filter (fun w => decide ¬ (decodeCmd (BitVec.ofNat 8 w)).WellFormed)).length = 223

/-! ### Output surface -/

/-- ALL_ON, ALL_OFF, SET_ODD and SET_EVEN: their words, their fixed masks and the OK response; with a non-zero operand
BAD_ARG and no effect (R87 to R90). The equation is the frame: nothing else changes. -/
def Obligations.FixedMaskCommands : Prop :=
  ∀ s : State,
    ((Instr.allOn 0).encode = .cmd 0x30 ∧ (Instr.allOff 0).encode = .cmd 0x40 ∧
      (Instr.setOdd 0).encode = .cmd 0x50 ∧ (Instr.setEven 0).encode = .cmd 0x60) ∧
    (exec (.allOn 0) s = .next { s with
      regs := { s.regs with out := 0b1111 }, outputs := { tmrStart := 0b0000, resp := some .ok } } ∧
     exec (.allOff 0) s = .next { s with
      regs := { s.regs with out := 0b0000 }, outputs := { tmrStart := 0b0000, resp := some .ok } } ∧
     exec (.setOdd 0) s = .next { s with
      regs := { s.regs with out := 0b0101 }, outputs := { tmrStart := 0b0000, resp := some .ok } } ∧
     exec (.setEven 0) s = .next { s with
      regs := { s.regs with out := 0b1010 }, outputs := { tmrStart := 0b0000, resp := some .ok } }) ∧
    (∀ z : Nibble, z ≠ 0 → ∀ i ∈ [Instr.allOn z, .allOff z, .setOdd z, .setEven z],
      exec i s = .next { s with outputs := { tmrStart := 0b0000, resp := some .badArg } })

/-- WRMASK writes its mask, every mask legal; with 0xF, 0x0, 0x5 and 0xA it does what ALL_ON, ALL_OFF, SET_ODD and
SET_EVEN do, by distinct words (R91). -/
def Obligations.WriteMaskCommand : Prop :=
  ∀ (m : Nibble) (s : State),
    (Instr.wrmask m).encode = .cmd (0x70#8 ||| m.setWidth 8) ∧
    exec (.wrmask m) s = .next { s with
      regs := { s.regs with out := m }, outputs := { tmrStart := 0b0000, resp := some .ok } } ∧
    exec (.allOn 0) s = exec (.wrmask 0xF) s ∧ exec (.allOff 0) s = exec (.wrmask 0x0) s ∧
    exec (.setOdd 0) s = exec (.wrmask 0x5) s ∧ exec (.setEven 0) s = exec (.wrmask 0xA) s ∧
    (∀ i ∈ [Instr.allOn 0, .allOff 0, .setOdd 0, .setEven 0], i.encode ≠ (Instr.wrmask m).encode) ∧
    (m = s.regs.out → ∀ t, exec (.wrmask m) s = .next t → t.regs = s.regs)

/-- SETBIT i: line i+1 active, the other lines as they were; `arg[3:2]` other than 00 gives BAD_ARG and no effect
(R92, R85). -/
def Obligations.SetBitCommand : Prop :=
  ∀ (a : Nibble) (s : State),
    (a.toNat < 4 →
      (Instr.setbit a).encode = .cmd (0x80#8 ||| a.setWidth 8) ∧
      ∃ o : Nibble, exec (.setbit a) s = .next { s with
          regs := { s.regs with out := o }, outputs := { tmrStart := 0b0000, resp := some .ok } } ∧
        o = s.regs.out ||| (0b0001#4 <<< a.toNat) ∧
        ∀ j, j < 4 → o.getLsbD j = (decide (j = a.toNat) || s.regs.out.getLsbD j)) ∧
    (4 ≤ a.toNat →
      exec (.setbit a) s = .next { s with outputs := { tmrStart := 0b0000, resp := some .badArg } })

/-- CLRBIT i: line i+1 inactive, the other lines as they were; `arg[3:2]` other than 00 gives BAD_ARG and no effect
(R93, R86). -/
def Obligations.ClearBitCommand : Prop :=
  ∀ (a : Nibble) (s : State),
    (a.toNat < 4 →
      (Instr.clrbit a).encode = .cmd (0x90#8 ||| a.setWidth 8) ∧
      ∃ o : Nibble, exec (.clrbit a) s = .next { s with
          regs := { s.regs with out := o }, outputs := { tmrStart := 0b0000, resp := some .ok } } ∧
        o = s.regs.out &&& ~~~(0b0001#4 <<< a.toNat) ∧
        ∀ j, j < 4 → o.getLsbD j = (!decide (j = a.toNat) && s.regs.out.getLsbD j)) ∧
    (4 ≤ a.toNat →
      exec (.clrbit a) s = .next { s with outputs := { tmrStart := 0b0000, resp := some .badArg } })

/-- The frame of an accepted output command: it writes `OUT` as its rule says, answers OK without a pulse, and changes
nothing else, whatever `SEL` is (R94). -/
def Obligations.OutputCommandFrame : Prop :=
  ∀ (i : Instr) (s : State), isOutputCommand i = true → i.WellFormed →
    ∃ t, exec i s = .next t ∧ some t.regs.out = maskWritten s.regs i.encode ∧
      t.outputs = { tmrStart := 0b0000, resp := some .ok } ∧
      t.regs.sel = s.regs.sel ∧ t.regs.f1 = s.regs.f1 ∧ t.regs.f2 = s.regs.f2 ∧
      t.regs.c3 = s.regs.c3 ∧ t.regs.c4 = s.regs.c4 ∧ t.en = s.en ∧ t.tmrRun = s.tmrRun ∧
      t.par = s.par ∧ t.pending = s.pending ∧ t.cycles = s.cycles

/-- An output command performed twice leaves `OUT` as performed once (R45). -/
def Obligations.OutputCommandsAreIdempotent : Prop :=
  ∀ (i : Instr) (s : State), isOutputCommand i = true →
    ∃ t u, exec i s = .next t ∧ exec i t = .next u ∧ u.regs.out = t.regs.out

/-! ### Selection -/

/-- SELECT n with n in 1..4: `SEL` holds n, only source n is enabled and it alone is pulsed, `OUT` and the pattern state
stay; n outside 1..4 gives BAD_INDEX and changes nothing (R100). -/
def Obligations.SelectCommand : Prop :=
  ∀ (n : Nibble) (s : State),
    (1 ≤ n.toNat ∧ n.toNat ≤ 4 →
      (Instr.select n).encode = .cmd (0x10#8 ||| n.setWidth 8) ∧
      ∃ t, exec (.select n) s = .next t ∧
        t = { s with regs := { s.regs with sel := n.setWidth 3 }
                     outputs := { tmrStart := 0b0001#4 <<< (n.toNat - 1), resp := some .ok } } ∧
        t.regs.sel.toNat = n.toNat ∧
        t.en = 0b0001#4 <<< (n.toNat - 1) ∧ t.tmrRun = 0b0001#4 <<< (n.toNat - 1)) ∧
    (¬ (1 ≤ n.toNat ∧ n.toNat ≤ 4) →
      exec (.select n) s = .next { s with outputs := { tmrStart := 0b0000, resp := some .badIndex } })

/-- STOP_ALL: `SEL` is 0 and no source is enabled, `OUT` is not cleared, and a tick that comes next has no effect; a
non-zero operand gives BAD_ARG and changes nothing (R101). -/
def Obligations.StopAllCommand : Prop :=
  ∀ (z : Nibble) (s : State),
    (z = 0 → (Instr.stopAll z).encode = .cmd 0x20 ∧
      ∃ t, exec (.stopAll z) s = .next t ∧
        t = { s with regs := { s.regs with sel := 0 }, outputs := { tmrStart := 0b0000, resp := some .ok } } ∧
        t.en = 0b0000 ∧ t.tmrRun = 0b0000 ∧ ∀ v, runEvent (.tick v) t = .next t.quiet) ∧
    (z ≠ 0 → exec (.stopAll z) s = .next { s with outputs := { tmrStart := 0b0000, resp := some .badArg } })

/-- The frame of the selection commands, accepted or not: no pattern state and no line is written (R103, R104). -/
def Obligations.SelectionFrame : Prop :=
  ∀ (i : Instr) (s : State), (∃ n, i = .select n) ∨ (∃ z, i = .stopAll z) →
    ∃ t, exec i s = .next t ∧ t.regs.f1 = s.regs.f1 ∧ t.regs.f2 = s.regs.f2 ∧ t.regs.c3 = s.regs.c3 ∧
      t.regs.c4 = s.regs.c4 ∧ t.regs.out = s.regs.out ∧ t.line = s.line ∧
      t.par = s.par ∧ t.pending = s.pending ∧ t.cycles = s.cycles

/-- At most one source is enabled: bit k-1 of `EN`, and of `tmr_run`, is 1 exactly when `SEL` is k (R24, R33, R102). -/
def Obligations.OnlyTheSelectedSourceIsEnabled : Prop :=
  ∀ s : State, s.tmrRun = s.en ∧
    (∀ k, 1 ≤ k → k ≤ 4 → (s.en.getLsbD (k - 1) = true ↔ s.regs.sel.toNat = k)) ∧
    (∀ j k, s.en.getLsbD j = true → s.en.getLsbD k = true → j = k)

/-- `SEL` changes only by an accepted SELECT n, to n, by STOP_ALL, to 0, and by reset, to 0 (R22, R128). -/
def Obligations.OnlySelectionOrResetChangesSel : Prop :=
  ∀ s t : State, step s = .next t →
    t.regs.sel = s.regs.sel ∨
    (∃ n e, s.nextEvent.1 = some e ∧ IsSelect n e ∧ t.regs.sel = n.setWidth 3) ∨
    (s.nextEvent.1 = some (.cmd 0x20) ∧ t.regs.sel = 0) ∨
    (s.nextEvent.1 = some .reset ∧ t.regs.sel = 0)

/-- `tmr_start` is the pulse of source n in an accepted SELECT n and 0 in every other step (R34). -/
def Obligations.OnlySelectPulsesAStart : Prop :=
  ∀ s t : State, step s = .next t →
    (∀ n e, s.nextEvent.1 = some e → IsSelect n e → t.outputs.tmrStart = 0b0001#4 <<< (n.toNat - 1)) ∧
    ((∀ n e, s.nextEvent.1 = some e → ¬ IsSelect n e) → t.outputs.tmrStart = 0b0000)

/-! ### Rendering -/

/-- The tick gate: with `SEL` = k and bit k-1 of the vector the step is TICKk; in every other case no element changes,
and a Tick step gives no pulse and no response (R120). -/
def Obligations.TicksPassOnlyTheGate : Prop :=
  ∀ (s t : State) (v : Nibble), s.nextEvent = (some (.tick v), t) →
    (t.regs.sel = 1 → v.getLsbD 0 = true → step s = exec (.tick1 v) t) ∧
    (t.regs.sel = 2 → v.getLsbD 1 = true → step s = exec (.tick2 v) t) ∧
    (t.regs.sel = 3 → v.getLsbD 2 = true → step s = exec (.tick3 v) t) ∧
    (t.regs.sel = 4 → v.getLsbD 3 = true → step s = exec (.tick4 v) t) ∧
    ((t.regs.sel = 0 ∨ v.getLsbD (t.regs.sel.toNat - 1) = false) → step s = .next t.quiet) ∧
    (∃ u, step s = .next u ∧ u.outputs = { tmrStart := 0b0000, resp := none })

/-- TICK1: `F1` is toggled first, then all lines are inactive if the new `F1` is 1 and active if it is 0; not accepted,
no effect (R120, R121). The equation is the frame. That a TICK1 term which is not accepted, a term no step runs, leaves
`s.quiet` is the model's choice (log 7). -/
def Obligations.Tick1BlinksAll : Prop :=
  ∀ (v : Nibble) (s : State),
    (s.regs.sel = 1 → v.getLsbD 0 = true →
      exec (.tick1 v) s = .next { s with
        regs := { s.regs with f1 := !s.regs.f1, out := if (!s.regs.f1) = true then 0b0000 else 0b1111 }
        outputs := { tmrStart := 0b0000, resp := none } }) ∧
    (s.regs.sel ≠ 1 ∨ v.getLsbD 0 = false → exec (.tick1 v) s = .next s.quiet)

/-- TICK2: `F2` is toggled first, then the even lines are active if the new `F2` is 1 and the odd lines if it is 0; not
accepted, no effect (R120, R122). That a TICK2 term which is not accepted, a term no step runs, leaves `s.quiet` is the
model's choice (log 7). -/
def Obligations.Tick2AlternatesOddEven : Prop :=
  ∀ (v : Nibble) (s : State),
    (s.regs.sel = 2 → v.getLsbD 1 = true →
      exec (.tick2 v) s = .next { s with
        regs := { s.regs with f2 := !s.regs.f2, out := if (!s.regs.f2) = true then 0b1010 else 0b0101 }
        outputs := { tmrStart := 0b0000, resp := none } }) ∧
    (s.regs.sel ≠ 2 ∨ v.getLsbD 1 = false → exec (.tick2 v) s = .next s.quiet)

/-- TICK3: the single bit `1 << (C3 mod 4)` of the counter before its increment, then `C3` counts up modulo 2^CNTW; the
mask is never 0; not accepted, no effect (R120, R123). That a TICK3 term which is not accepted, a term no step runs,
leaves `s.quiet` is the model's choice (log 7). -/
def Obligations.Tick3RotatesUp : Prop :=
  ∀ (v : Nibble) (s : State),
    (s.regs.sel = 3 → v.getLsbD 2 = true →
      exec (.tick3 v) s = .next { s with
        regs := { s.regs with out := 0b0001#4 <<< (s.regs.c3 % 4), c3 := (s.regs.c3 + 1) % 2 ^ s.par.cntw }
        outputs := { tmrStart := 0b0000, resp := none } } ∧
      0b0001#4 <<< (s.regs.c3 % 4) ≠ 0#4) ∧
    (s.regs.sel ≠ 3 ∨ v.getLsbD 2 = false → exec (.tick3 v) s = .next s.quiet)

/-- TICK4: the single bit `0x8 >> (C4 mod 4)` of the counter before its increment, then `C4` counts up modulo 2^CNTW; not
accepted, no effect (R120, R124). That a TICK4 term which is not accepted, a term no step runs, leaves `s.quiet` is the
model's choice (log 7). -/
def Obligations.Tick4RotatesDown : Prop :=
  ∀ (v : Nibble) (s : State),
    (s.regs.sel = 4 → v.getLsbD 3 = true →
      exec (.tick4 v) s = .next { s with
        regs := { s.regs with out := 0b1000#4 >>> (s.regs.c4 % 4), c4 := (s.regs.c4 + 1) % 2 ^ s.par.cntw }
        outputs := { tmrStart := 0b0000, resp := none } } ∧
      0b1000#4 >>> (s.regs.c4 % 4) ≠ 0#4) ∧
    (s.regs.sel ≠ 4 ∨ v.getLsbD 3 = false → exec (.tick4 v) s = .next s.quiet)

/-- The frame of the renders: each completes in its step from every value of its state and writes `OUT` and its own flag
or counter, nothing else; `SEL` and `tmr_run` stay and nothing is pulsed (R125, R128). -/
def Obligations.RenderFrame : Prop :=
  ∀ (v : Nibble) (s : State),
    (∃ t, exec (.tick1 v) s = .next t ∧ t.regs = { s.regs with f1 := t.regs.f1, out := t.regs.out } ∧
      t = { s.quiet with regs := t.regs } ∧ t.tmrRun = s.tmrRun) ∧
    (∃ t, exec (.tick2 v) s = .next t ∧ t.regs = { s.regs with f2 := t.regs.f2, out := t.regs.out } ∧
      t = { s.quiet with regs := t.regs } ∧ t.tmrRun = s.tmrRun) ∧
    (∃ t, exec (.tick3 v) s = .next t ∧ t.regs = { s.regs with c3 := t.regs.c3, out := t.regs.out } ∧
      t = { s.quiet with regs := t.regs } ∧ t.tmrRun = s.tmrRun) ∧
    (∃ t, exec (.tick4 v) s = .next t ∧ t.regs = { s.regs with c4 := t.regs.c4, out := t.regs.out } ∧
      t = { s.quiet with regs := t.regs } ∧ t.tmrRun = s.tmrRun)

/-- Every render is the Mealy machine of the table, row by row, for every legal CNTW (R126). -/
def Obligations.RendersFollowTheMealyTable : Prop :=
  ∀ row ∈ mealyTable, ∀ (v : Nibble) (s : State), s.par.Ok →
    s.regs.sel.toNat = row.pattern → v.getLsbD (row.pattern - 1) = true →
    s.regs.patternState row.pattern = row.before →
    ∃ t, runEvent (.tick v) s = .next t ∧ t.regs.patternState row.pattern = row.after ∧ t.regs.out = row.mask

/-- Of a tick vector only bit SEL-1 counts: two vectors that agree on it have the same effect, and with `SEL` = 0 any two
have (R147). -/
def Obligations.OnlyTheSelectedTickBitCounts : Prop :=
  ∀ (s : State) (v v' : Nibble),
    (s.regs.sel ≠ 0 → v.getLsbD (s.regs.sel.toNat - 1) = v'.getLsbD (s.regs.sel.toNat - 1)) →
    ∃ t, runEvent (.tick v) s = .next t ∧ runEvent (.tick v') s = .next t

/-- Any number of ticks of sources that are not selected leaves every element as it was: a late tick of a stopped source
cannot write `OUT` or advance a pattern (R51, R144, R168). -/
def Obligations.StaleTicksHaveNoEffect : Prop :=
  ∀ (vs : List Nibble) (s : State), s.pending = vs.map Event.tick →
    (∀ v ∈ vs, s.regs.sel ≠ 0 → v.getLsbD (s.regs.sel.toNat - 1) = false) →
    ∃ t, steps vs.length s = .next t ∧ t.regs = s.regs ∧ t.tmrRun = s.tmrRun

/-- An accepted tick overwrites all four lines: what the host had written to `OUT` does not matter after it (R172). -/
def Obligations.RenderOverwritesTheHostsPicture : Prop :=
  ∀ (s : State) (o v : Nibble), s.regs.sel ≠ 0 → s.regs.sel.toNat ≤ 4 →
    v.getLsbD (s.regs.sel.toNat - 1) = true →
    ∃ t, runEvent (.tick v) s = .next t ∧ runEvent (.tick v) { s with regs := { s.regs with out := o } } = .next t

/-- Accepted ticks of pattern 3 walk the single bit up and those of pattern 4 down, one place a tick from where the
counter stands, for every number of ticks and every legal CNTW (R123, R124). -/
def Obligations.RotationsAdvanceOnePlaceATick : Prop :=
  ∀ (n : Nat) (v : Nibble) (s : State), s.par.Ok → s.pending = List.replicate (n + 1) (.tick v) →
    (s.regs.sel = 3 → v.getLsbD 2 = true → ∃ t, steps (n + 1) s = .next t ∧
      t.regs.out = 0b0001#4 <<< ((s.regs.c3 + n) % 4) ∧ t.regs.c3 = (s.regs.c3 + n + 1) % 2 ^ s.par.cntw) ∧
    (s.regs.sel = 4 → v.getLsbD 3 = true → ∃ t, steps (n + 1) s = .next t ∧
      t.regs.out = 0b1000#4 >>> ((s.regs.c4 + n) % 4) ∧ t.regs.c4 = (s.regs.c4 + n + 1) % 2 ^ s.par.cntw)

/-- Pattern 1 after reset, for both seeds: after an odd number of ticks the lines are all active if SEED1 = 1 and all
inactive if SEED1 = 0, after an even number the other way round; pattern 2 alternates likewise (R121, R122). It holds
for every SEED1 and SEED2, so no default is relied on. -/
def Obligations.ToggleParityForBothSeeds : Prop :=
  ∀ (n : Nat) (v : Nibble) (s : State), s.pending = List.replicate (n + 1) (.tick v) →
    (s.regs = { resetRegs s.par with sel := 1 } → v.getLsbD 0 = true → ∃ t, steps (n + 1) s = .next t ∧
      t.regs.out = if (s.par.seed1 = true ↔ (n + 1) % 2 = 1) then 0b1111 else 0b0000) ∧
    (s.regs = { resetRegs s.par with sel := 2 } → v.getLsbD 1 = true → ∃ t, steps (n + 1) s = .next t ∧
      t.regs.out = if (s.par.seed2 = true ↔ (n + 1) % 2 = 1) then 0b0101 else 0b1010)

/-! ### Persistence and the output register -/

/-- A flag or counter changes only by an accepted tick of its own pattern or by reset (R163, R38). -/
def Obligations.OnlyOwnRenderOrResetChangesPatternState : Prop :=
  ∀ s t : State, step s = .next t → s.nextEvent.1 ≠ some .reset →
    (t.regs.f1 ≠ s.regs.f1 → s.regs.sel = 1 ∧ ∃ v, s.nextEvent.1 = some (.tick v) ∧ v.getLsbD 0 = true) ∧
    (t.regs.f2 ≠ s.regs.f2 → s.regs.sel = 2 ∧ ∃ v, s.nextEvent.1 = some (.tick v) ∧ v.getLsbD 1 = true) ∧
    (t.regs.c3 ≠ s.regs.c3 → s.regs.sel = 3 ∧ ∃ v, s.nextEvent.1 = some (.tick v) ∧ v.getLsbD 2 = true) ∧
    (t.regs.c4 ≠ s.regs.c4 → s.regs.sel = 4 ∧ ∃ v, s.nextEvent.1 = some (.tick v) ∧ v.getLsbD 3 = true)

/-- Patterns are paused, not reset: no sequence of command words, of any length, changes a flag or counter (R29). -/
def Obligations.PatternStateSurvivesCommands : Prop :=
  ∀ (ws : List CmdWord) (s : State), s.pending = ws.map Event.cmd →
    ∃ t, steps ws.length s = .next t ∧ t.regs.f1 = s.regs.f1 ∧ t.regs.f2 = s.regs.f2 ∧
      t.regs.c3 = s.regs.c3 ∧ t.regs.c4 = s.regs.c4

/-- A step writes `OUT` at most once: reset with OUT_INIT, an output command or an accepted tick with its mask, and no
other event (R30, R49). -/
def Obligations.StepWritesOutAsTheRulesSay : Prop :=
  ∀ s t : State, step s = .next t →
    (s.nextEvent.1 = none → t.regs.out = s.regs.out) ∧
    (s.nextEvent.1 = some .reset → t.regs.out = s.par.outInit) ∧
    (∀ e, s.nextEvent.1 = some e → e ≠ .reset → t.regs.out = (maskWritten s.regs e).getD s.regs.out)

/-- After any sequence of steps each bit of `OUT` is that of the last write since reset, and that of OUT_INIT if there
was none (R31). -/
def Obligations.OutHoldsTheLastWrite : Prop :=
  ∀ (n : Nat) (s : State), s.regs.out = s.par.outInit →
    ∃ t, steps n s = .next t ∧
      ∀ k, 1 ≤ k → k ≤ 4 →
        t.regs.out.getLsbD (k - 1) = ((lastMask n s none).getD s.par.outInit).getLsbD (k - 1)

/-! ### Outputs and ports -/

/-- The level of line k is bit k-1 of `OUT`, or its complement if LINE_POL is ACTIVE_LOW (R32). -/
def Obligations.LinesFollowOut : Prop :=
  ∀ (s : State) (k : Nat), 1 ≤ k → k ≤ 4 →
    s.line.getLsbD (k - 1) = s.level k ∧
    (s.par.linePol = .activeHigh → s.level k = s.regs.out.getLsbD (k - 1)) ∧
    (s.par.linePol = .activeLow → s.level k = !s.regs.out.getLsbD (k - 1))

/-- No effect depends on LINE_POL: with the other polarity the same step is taken (R32, D14). -/
def Obligations.PolarityDoesNotMatterToAStep : Prop :=
  ∀ (s t : State) (p : Polarity), step s = .next t → step (s.withPolarity p) = .next (t.withPolarity p)

/-- A response is given in a step that is a command, and in no other (R35). -/
def Obligations.OnlyCommandsGetResponses : Prop :=
  ∀ s t : State, step s = .next t → (t.outputs.resp ≠ none ↔ ∃ w, s.nextEvent.1 = some (.cmd w))

/-- The events of one clock cycle: reset alone, which drops the cycle's tick and command; else the tick step against the
`SEL` the last cycle left and then the command step (R146, R161); the tick vector 0b0000 is no event (R66). That a cycle
without tick and command is one quiet step is the model's choice (log 2), and so is how inputs stand in State (log 1). -/
def Obligations.CycleOrderIsResetOrTickThenCommand : Prop :=
  ∀ (s : State) (c : PortInputs) (cs : List PortInputs), s.pending = [] → s.cycles = c :: cs →
    (c.rst = true → step s = .next { s with
      regs := resetRegs s.par, cycles := cs, outputs := { tmrStart := 0b0000, resp := none } }) ∧
    (c.rst = false → c.tick ≠ 0 → c.cmdValid = true → ∃ t u, step s = .next t ∧ step t = .next u ∧
      runEvent (.tick c.tick) { s with pending := [.cmd c.cmdData], cycles := cs } = .next t ∧
      runEvent (.cmd c.cmdData) { t with pending := [] } = .next u ∧ u.pending = [] ∧ u.cycles = cs) ∧
    (c.rst = false → c.tick ≠ 0 → c.cmdValid = false →
      step s = runEvent (.tick c.tick) { s with cycles := cs }) ∧
    (c.rst = false → c.tick = 0 → c.cmdValid = true →
      step s = runEvent (.cmd c.cmdData) { s with cycles := cs }) ∧
    (c.rst = false → c.tick = 0 → c.cmdValid = false → step s = .next { s with cycles := cs }.quiet)

/-- A tick of the pattern that a SELECT of the same cycle starts is dropped, and the SELECT takes effect; the pattern that
was running has no tick in the cycle (R146, R50). -/
def Obligations.TickOfTheStartedPatternIsDropped : Prop :=
  ∀ (s : State) (c : PortInputs) (cs : List PortInputs) (n : Nibble), s.pending = [] → s.cycles = c :: cs →
    c.rst = false → c.cmdValid = true → IsSelect n (.cmd c.cmdData) → s.regs.sel.toNat ≠ n.toNat →
    c.tick = 0b0001#4 <<< (n.toNat - 1) →
    ∃ t, steps 2 s = .next t ∧ t.regs = { s.regs with sel := n.setWidth 3 }

/-- When the events of a clock cycle are processed, `resp_valid` is high exactly if `cmd_valid` was high and `rst` low,
with that command's code (R39, R141, R174). That the ports are read when no event of the cycle is pending is the model's
reading (log 6), and that a cycle without events takes one step (`stepCount`) is its choice (log 2). -/
def Obligations.ResponseShowsAfterTheCommandsCycle : Prop :=
  ∀ (s : State) (c : PortInputs) (cs : List PortInputs), s.pending = [] → s.cycles = c :: cs →
    ∃ t, steps c.stepCount s = .next t ∧ t.pending = [] ∧ t.cycles = cs ∧
      t.respValid = (c.cmdValid && !c.rst) ∧
      (c.cmdValid = true → c.rst = false → t.respCode = some (expectedResponse c.cmdData).code)

/-- IDLE assembles to two commands which leave the block idle with all lines inactive and every flag and counter kept
(R68, R171). -/
def Obligations.IdleStopsAndClears : Prop :=
  ∀ (s : State) (es : List Event), assembleLine "IDLE" = some es → s.pending = es →
    ∃ t, steps 2 s = .next t ∧ t.regs = { s.regs with sel := 0, out := 0b0000 } ∧ t.tmrRun = 0b0000

/-! ### Reset, the invariant and the parameters -/

/-- The reset event sets every element to its reset value, for every value of the parameters, in every state; no source
is enabled or pulsed, every tick after it is dropped, the lines show OUT_INIT and no response is given (R160). -/
def Obligations.ResetSetsEveryElement : Prop :=
  ∀ s t : State, s.nextEvent = (some .reset, t) →
    ∃ u, step s = .next u ∧
      u = { t with regs := { sel := 0, f1 := t.par.seed1, f2 := t.par.seed2, c3 := 0, c4 := 0, out := t.par.outInit }
                   outputs := { tmrStart := 0b0000, resp := none } } ∧
      u.en = 0b0000 ∧ u.tmrRun = 0b0000 ∧ (∀ v, runEvent (.tick v) u = .next u) ∧
      (∀ k, 1 ≤ k → k ≤ 4 → u.line.getLsbD (k - 1) = polarityLevel t.par.linePol (t.par.outInit.getLsbD (k - 1)))

/-- `State.reset` is what the reset event leaves of any state with the spec's default parameters, but for the inputs that
wait (R6, R36, R160). That none waits in `State.reset` is the model's choice (log 1), and so is the form in which the
parameters stand in it (log 4); their values are the spec's. -/
def Obligations.ResetStateIsWhatResetLeaves : Prop :=
  ∀ s : State, s.par = { cntw := 2, seed1 := true, seed2 := true, outInit := 0b0000, linePol := .activeHigh } →
    runEvent .reset s = .next { State.reset with pending := s.pending, cycles := s.cycles } ∧
    State.reset.regs = { sel := 0, f1 := true, f2 := true, c3 := 0, c4 := 0, out := 0b0000 } ∧
    State.reset.outputs = { tmrStart := 0b0000, resp := none } ∧
    State.reset.tmrRun = 0b0000 ∧ State.reset.line = 0b0000

/-- The state after reset meets the invariant. -/
def Obligations.ResetMeetsTheInvariant : Prop := State.reset.Inv

/-- Every step keeps the invariant: `SEL` holds 0..4 (R22), the counters fit CNTW bits (R27, R28), from every state that
meets it and for every input. -/
def Obligations.EveryStepKeepsTheInvariant : Prop :=
  ∀ s t : State, s.Inv → step s = .next t → t.Inv

/-- The observable behaviour does not depend on CNTW: two machines that differ only in CNTW >= 2, with counters equal
modulo 4, take every number of steps together, and lines, timer controls and responses stay the same (R127). -/
def Obligations.CounterWidthIsNotObservable : Prop :=
  ∀ (n : Nat) (s t : State), SameButCounterWidth s t →
    ∃ s' t', steps n s = .next s' ∧ steps n t = .next t' ∧ SameButCounterWidth s' t' ∧
      s'.line = t'.line ∧ s'.tmrRun = t'.tmrRun ∧ s'.outputs = t'.outputs
end

