-- ==== Sys2Proof/Laws/Decode.lean ====
section
/-! SUPPORT. The decoder by opcode, and the tick decoder by selector value. -/

namespace Sys2Proof

/-- A command word always decodes to a command, never to a tick (R67). -/
theorem decodeCmd_format : ∀ w : CmdWord, (decodeCmd w).format = .cmd := by decide

/-- A tick vector decodes, if at all, to the TICK row of the selected pattern, whose bit it has (R66). -/
theorem decodeTick_some {sel : Sel} {v : Nibble} {i : Instr} (h : decodeTick sel v = some i) :
    (sel = 1 ∧ v.getLsbD 0 = true ∧ i = .tick1 v) ∨ (sel = 2 ∧ v.getLsbD 1 = true ∧ i = .tick2 v) ∨
    (sel = 3 ∧ v.getLsbD 2 = true ∧ i = .tick3 v) ∨ (sel = 4 ∧ v.getLsbD 3 = true ∧ i = .tick4 v) := by
  unfold decodeTick at h
  split at h
  next hs => exact .inl (by simp at h; exact ⟨BitVec.eq_of_toNat_eq hs, h.1, h.2.symm⟩)
  next hs => exact .inr (.inl (by simp at h; exact ⟨BitVec.eq_of_toNat_eq hs, h.1, h.2.symm⟩))
  next hs => exact .inr (.inr (.inl (by simp at h; exact ⟨BitVec.eq_of_toNat_eq hs, h.1, h.2.symm⟩)))
  next hs => exact .inr (.inr (.inr (by simp at h; exact ⟨BitVec.eq_of_toNat_eq hs, h.1, h.2.symm⟩)))
  next => cases h

/-- A tick vector is no TICK event while `SEL` is 0 or when the bit of the selected pattern is 0 (R66). -/
theorem decodeTick_none_iff {sel : Sel} {v : Nibble} :
    decodeTick sel v = none ↔ (sel = 0 ∨ v.getLsbD (sel.toNat - 1) = false) := by
  revert sel v; decide

end Sys2Proof
end

