-- ==== Sys2Proof/Laws/State.lean ====
section
/-! SUPPORT. What each update leaves in each field of State, by rfl: a proof reads a field of an updated state through
these and does not unfold the update. -/

namespace Sys2Proof.Machine

/-! ### setSel -/

@[simp] theorem State.setSel_par (v : Sel) (s : State) : (s.setSel v).par = s.par := rfl
@[simp] theorem State.setSel_pending (v : Sel) (s : State) : (s.setSel v).pending = s.pending := rfl
@[simp] theorem State.setSel_cycles (v : Sel) (s : State) : (s.setSel v).cycles = s.cycles := rfl
@[simp] theorem State.setSel_outputs (v : Sel) (s : State) : (s.setSel v).outputs = s.outputs := rfl
@[simp] theorem State.setSel_sel (v : Sel) (s : State) : (s.setSel v).regs.sel = v := rfl
@[simp] theorem State.setSel_f1 (v : Sel) (s : State) : (s.setSel v).regs.f1 = s.regs.f1 := rfl
@[simp] theorem State.setSel_f2 (v : Sel) (s : State) : (s.setSel v).regs.f2 = s.regs.f2 := rfl
@[simp] theorem State.setSel_c3 (v : Sel) (s : State) : (s.setSel v).regs.c3 = s.regs.c3 := rfl
@[simp] theorem State.setSel_c4 (v : Sel) (s : State) : (s.setSel v).regs.c4 = s.regs.c4 := rfl
@[simp] theorem State.setSel_out (v : Sel) (s : State) : (s.setSel v).regs.out = s.regs.out := rfl

/-! ### setF1 -/

@[simp] theorem State.setF1_par (v : Bool) (s : State) : (s.setF1 v).par = s.par := rfl
@[simp] theorem State.setF1_pending (v : Bool) (s : State) : (s.setF1 v).pending = s.pending := rfl
@[simp] theorem State.setF1_cycles (v : Bool) (s : State) : (s.setF1 v).cycles = s.cycles := rfl
@[simp] theorem State.setF1_outputs (v : Bool) (s : State) : (s.setF1 v).outputs = s.outputs := rfl
@[simp] theorem State.setF1_sel (v : Bool) (s : State) : (s.setF1 v).regs.sel = s.regs.sel := rfl
@[simp] theorem State.setF1_f1 (v : Bool) (s : State) : (s.setF1 v).regs.f1 = v := rfl
@[simp] theorem State.setF1_f2 (v : Bool) (s : State) : (s.setF1 v).regs.f2 = s.regs.f2 := rfl
@[simp] theorem State.setF1_c3 (v : Bool) (s : State) : (s.setF1 v).regs.c3 = s.regs.c3 := rfl
@[simp] theorem State.setF1_c4 (v : Bool) (s : State) : (s.setF1 v).regs.c4 = s.regs.c4 := rfl
@[simp] theorem State.setF1_out (v : Bool) (s : State) : (s.setF1 v).regs.out = s.regs.out := rfl

/-! ### setF2 -/

@[simp] theorem State.setF2_par (v : Bool) (s : State) : (s.setF2 v).par = s.par := rfl
@[simp] theorem State.setF2_pending (v : Bool) (s : State) : (s.setF2 v).pending = s.pending := rfl
@[simp] theorem State.setF2_cycles (v : Bool) (s : State) : (s.setF2 v).cycles = s.cycles := rfl
@[simp] theorem State.setF2_outputs (v : Bool) (s : State) : (s.setF2 v).outputs = s.outputs := rfl
@[simp] theorem State.setF2_sel (v : Bool) (s : State) : (s.setF2 v).regs.sel = s.regs.sel := rfl
@[simp] theorem State.setF2_f1 (v : Bool) (s : State) : (s.setF2 v).regs.f1 = s.regs.f1 := rfl
@[simp] theorem State.setF2_f2 (v : Bool) (s : State) : (s.setF2 v).regs.f2 = v := rfl
@[simp] theorem State.setF2_c3 (v : Bool) (s : State) : (s.setF2 v).regs.c3 = s.regs.c3 := rfl
@[simp] theorem State.setF2_c4 (v : Bool) (s : State) : (s.setF2 v).regs.c4 = s.regs.c4 := rfl
@[simp] theorem State.setF2_out (v : Bool) (s : State) : (s.setF2 v).regs.out = s.regs.out := rfl

/-! ### setC3 -/

@[simp] theorem State.setC3_par (v : Nat) (s : State) : (s.setC3 v).par = s.par := rfl
@[simp] theorem State.setC3_pending (v : Nat) (s : State) : (s.setC3 v).pending = s.pending := rfl
@[simp] theorem State.setC3_cycles (v : Nat) (s : State) : (s.setC3 v).cycles = s.cycles := rfl
@[simp] theorem State.setC3_outputs (v : Nat) (s : State) : (s.setC3 v).outputs = s.outputs := rfl
@[simp] theorem State.setC3_sel (v : Nat) (s : State) : (s.setC3 v).regs.sel = s.regs.sel := rfl
@[simp] theorem State.setC3_f1 (v : Nat) (s : State) : (s.setC3 v).regs.f1 = s.regs.f1 := rfl
@[simp] theorem State.setC3_f2 (v : Nat) (s : State) : (s.setC3 v).regs.f2 = s.regs.f2 := rfl
@[simp] theorem State.setC3_c3 (v : Nat) (s : State) : (s.setC3 v).regs.c3 = v := rfl
@[simp] theorem State.setC3_c4 (v : Nat) (s : State) : (s.setC3 v).regs.c4 = s.regs.c4 := rfl
@[simp] theorem State.setC3_out (v : Nat) (s : State) : (s.setC3 v).regs.out = s.regs.out := rfl

/-! ### setC4 -/

@[simp] theorem State.setC4_par (v : Nat) (s : State) : (s.setC4 v).par = s.par := rfl
@[simp] theorem State.setC4_pending (v : Nat) (s : State) : (s.setC4 v).pending = s.pending := rfl
@[simp] theorem State.setC4_cycles (v : Nat) (s : State) : (s.setC4 v).cycles = s.cycles := rfl
@[simp] theorem State.setC4_outputs (v : Nat) (s : State) : (s.setC4 v).outputs = s.outputs := rfl
@[simp] theorem State.setC4_sel (v : Nat) (s : State) : (s.setC4 v).regs.sel = s.regs.sel := rfl
@[simp] theorem State.setC4_f1 (v : Nat) (s : State) : (s.setC4 v).regs.f1 = s.regs.f1 := rfl
@[simp] theorem State.setC4_f2 (v : Nat) (s : State) : (s.setC4 v).regs.f2 = s.regs.f2 := rfl
@[simp] theorem State.setC4_c3 (v : Nat) (s : State) : (s.setC4 v).regs.c3 = s.regs.c3 := rfl
@[simp] theorem State.setC4_c4 (v : Nat) (s : State) : (s.setC4 v).regs.c4 = v := rfl
@[simp] theorem State.setC4_out (v : Nat) (s : State) : (s.setC4 v).regs.out = s.regs.out := rfl

/-! ### outWrite -/

@[simp] theorem State.outWrite_par (v : Nibble) (s : State) : (s.outWrite v).par = s.par := rfl
@[simp] theorem State.outWrite_pending (v : Nibble) (s : State) : (s.outWrite v).pending = s.pending := rfl
@[simp] theorem State.outWrite_cycles (v : Nibble) (s : State) : (s.outWrite v).cycles = s.cycles := rfl
@[simp] theorem State.outWrite_outputs (v : Nibble) (s : State) : (s.outWrite v).outputs = s.outputs := rfl
@[simp] theorem State.outWrite_sel (v : Nibble) (s : State) : (s.outWrite v).regs.sel = s.regs.sel := rfl
@[simp] theorem State.outWrite_f1 (v : Nibble) (s : State) : (s.outWrite v).regs.f1 = s.regs.f1 := rfl
@[simp] theorem State.outWrite_f2 (v : Nibble) (s : State) : (s.outWrite v).regs.f2 = s.regs.f2 := rfl
@[simp] theorem State.outWrite_c3 (v : Nibble) (s : State) : (s.outWrite v).regs.c3 = s.regs.c3 := rfl
@[simp] theorem State.outWrite_c4 (v : Nibble) (s : State) : (s.outWrite v).regs.c4 = s.regs.c4 := rfl
@[simp] theorem State.outWrite_out (v : Nibble) (s : State) : (s.outWrite v).regs.out = v := rfl

/-! ### beginStep -/

@[simp] theorem State.beginStep_par (s : State) : s.beginStep.par = s.par := rfl
@[simp] theorem State.beginStep_regs (s : State) : s.beginStep.regs = s.regs := rfl
@[simp] theorem State.beginStep_pending (s : State) : s.beginStep.pending = s.pending := rfl
@[simp] theorem State.beginStep_cycles (s : State) : s.beginStep.cycles = s.cycles := rfl
@[simp] theorem State.beginStep_outputs (s : State) : s.beginStep.outputs = { tmrStart := 0b0000, resp := none } := rfl

/-! ### pulse -/

@[simp] theorem State.pulse_par (v : Nibble) (s : State) : (s.pulse v).par = s.par := rfl
@[simp] theorem State.pulse_regs (v : Nibble) (s : State) : (s.pulse v).regs = s.regs := rfl
@[simp] theorem State.pulse_pending (v : Nibble) (s : State) : (s.pulse v).pending = s.pending := rfl
@[simp] theorem State.pulse_cycles (v : Nibble) (s : State) : (s.pulse v).cycles = s.cycles := rfl
@[simp] theorem State.pulse_tmrStart (v : Nibble) (s : State) : (s.pulse v).outputs.tmrStart = v := rfl
@[simp] theorem State.pulse_resp (v : Nibble) (s : State) : (s.pulse v).outputs.resp = s.outputs.resp := rfl

/-! ### respond -/

@[simp] theorem State.respond_par (c : Resp) (s : State) : (s.respond c).par = s.par := rfl
@[simp] theorem State.respond_regs (c : Resp) (s : State) : (s.respond c).regs = s.regs := rfl
@[simp] theorem State.respond_pending (c : Resp) (s : State) : (s.respond c).pending = s.pending := rfl
@[simp] theorem State.respond_cycles (c : Resp) (s : State) : (s.respond c).cycles = s.cycles := rfl
@[simp] theorem State.respond_tmrStart (c : Resp) (s : State) : (s.respond c).outputs.tmrStart = s.outputs.tmrStart := rfl
@[simp] theorem State.respond_resp (c : Resp) (s : State) : (s.respond c).outputs.resp = some c := rfl

/-! ### reject -/

@[simp] theorem State.reject_par (c : Resp) (s : State) : (s.reject c).par = s.par := rfl
@[simp] theorem State.reject_regs (c : Resp) (s : State) : (s.reject c).regs = s.regs := rfl
@[simp] theorem State.reject_pending (c : Resp) (s : State) : (s.reject c).pending = s.pending := rfl
@[simp] theorem State.reject_cycles (c : Resp) (s : State) : (s.reject c).cycles = s.cycles := rfl
@[simp] theorem State.reject_tmrStart (c : Resp) (s : State) : (s.reject c).outputs.tmrStart = 0b0000 := rfl
@[simp] theorem State.reject_resp (c : Resp) (s : State) : (s.reject c).outputs.resp = some c := rfl

/-! ### resetEvent -/

@[simp] theorem State.resetEvent_par (s : State) : s.resetEvent.par = s.par := rfl
@[simp] theorem State.resetEvent_pending (s : State) : s.resetEvent.pending = s.pending := rfl
@[simp] theorem State.resetEvent_cycles (s : State) : s.resetEvent.cycles = s.cycles := rfl
@[simp] theorem State.resetEvent_regs (s : State) : s.resetEvent.regs = resetRegs s.par := rfl
@[simp] theorem State.resetEvent_outputs (s : State) : s.resetEvent.outputs = { tmrStart := 0b0000, resp := none } := rfl

/-- The state after reset holds the elements of R160 for its parameters. -/
theorem reset_regs : State.reset.regs = resetRegs State.reset.par := rfl

end Sys2Proof.Machine
end

