-- ==== Sys2Proof/Laws/Ops.lean ====
section
/-! SUPPORT. One lemma for what each shared operation can do; provers cite these and do not unfold the operation. -/

namespace Sys2Proof.Machine

/-! ### Operand forms -/

theorem formN_legal {a : Nibble} (h : 1 ≤ a.toNat ∧ a.toNat ≤ 4) : formN a = .ok a := if_pos h

theorem formN_illegal {a : Nibble} (h : ¬ (1 ≤ a.toNat ∧ a.toNat ≤ 4)) : formN a = .error .badIndex := if_neg h

theorem formZ_zero : formZ 0 = .ok () := rfl

theorem formZ_nonzero {z : Nibble} (h : z ≠ 0) : formZ z = .error .badArg := if_neg h

/-- The two high bits of an operand are 00 exactly for the operands below 4. -/
theorem highBits_zero_iff : ∀ a : Nibble, a.extractLsb' 2 2 = 0b00#2 ↔ a.toNat < 4 := by decide

theorem formI_legal {a : Nibble} (h : a.toNat < 4) : formI a = .ok (a.extractLsb' 0 2) :=
  if_pos ((highBits_zero_iff a).2 h)

theorem formI_illegal {a : Nibble} (h : 4 ≤ a.toNat) : formI a = .error .badArg :=
  if_neg fun h' => by have := (highBits_zero_iff a).1 h'; omega

/-- The bit index of a legal operand is the operand's number. -/
theorem bitIndex_toNat : ∀ a : Nibble, a.toNat < 4 → (a.extractLsb' 0 2).toNat = a.toNat := by decide

/-! ### Commands and ticks -/

variable {α : Type} {act : α → State → State} {s t : State}

theorem onOperand_ok (a : α) : onOperand (.ok a) act s = .next ((act a s.beginStep).respond .ok) := rfl

theorem onOperand_error (c : Resp) : onOperand (.error c : Except Resp α) act s = .next (s.reject c) := rfl

/-- A command is rejected or performed, and goes on in either case. -/
theorem onOperand_cases {o : Except Resp α} (h : onOperand o act s = .next t) :
    (∃ c, o = .error c ∧ t = s.reject c) ∨ (∃ a, o = .ok a ∧ t = (act a s.beginStep).respond .ok) := by
  cases o with
  | error c => exact .inl ⟨c, rfl, (Host.Outcome.next.inj h).symm⟩
  | ok a => exact .inr ⟨a, rfl, (Host.Outcome.next.inj h).symm⟩

theorem onOperand_next (o : Except Resp α) (act : α → State → State) (s : State) :
    ∃ t, onOperand o act s = .next t := by
  cases o with
  | error c => exact ⟨_, rfl⟩
  | ok a => exact ⟨_, rfl⟩

theorem tickAccepted_iff {k : Nat} {v : Nibble} :
    tickAccepted k v s = true ↔ s.regs.sel.toNat = k ∧ v.getLsbD (k - 1) = true := by
  simp [tickAccepted]

theorem onTick_accepted {k : Nat} {v : Nibble} {render : State → State} (h : tickAccepted k v s = true) :
    onTick k v render s = .next (render s.beginStep) := if_pos h

theorem onTick_dropped {k : Nat} {v : Nibble} {render : State → State} (h : tickAccepted k v s = false) :
    onTick k v render s = .next s.beginStep := if_neg (by simp [h])

/-- A tick is rendered or dropped. -/
theorem onTick_cases {k : Nat} {v : Nibble} {render : State → State} (h : onTick k v render s = .next t) :
    (tickAccepted k v s = true ∧ t = render s.beginStep) ∨ (tickAccepted k v s = false ∧ t = s.beginStep) := by
  cases hk : tickAccepted k v s with
  | true => rw [onTick_accepted hk] at h; exact .inl ⟨rfl, (Host.Outcome.next.inj h).symm⟩
  | false => rw [onTick_dropped hk] at h; exact .inr ⟨rfl, (Host.Outcome.next.inj h).symm⟩

theorem onTick_next (k : Nat) (v : Nibble) (render : State → State) (s : State) :
    ∃ t, onTick k v render s = .next t := by
  cases hk : tickAccepted k v s with
  | true => exact ⟨_, onTick_accepted hk⟩
  | false => exact ⟨_, onTick_dropped hk⟩

/-! ### Renders -/

/-- All that `render1` does, as one record. -/
theorem render1_eq (s : State) : render1 s =
    { s with regs := { s.regs with f1 := !s.regs.f1, out := if (!s.regs.f1) = true then 0b0000 else 0b1111 } } := by
  cases h : s.regs.f1 <;> simp [render1, toggle, h, State.setF1, State.clearAll, State.setAll, State.outWrite]

/-- All that `render2` does, as one record. -/
theorem render2_eq (s : State) : render2 s =
    { s with regs := { s.regs with f2 := !s.regs.f2, out := if (!s.regs.f2) = true then 0b1010 else 0b0101 } } := by
  cases h : s.regs.f2 <;> simp [render2, toggle, h, State.setF2, State.setEvenLines, State.setOddLines, State.outWrite]

/-- All that `render3` does, as one record. -/
theorem render3_eq (s : State) : render3 s =
    { s with regs := { s.regs with out := 0b0001#4 <<< (s.regs.c3 % 4), c3 := (s.regs.c3 + 1) % 2 ^ s.par.cntw } } := rfl

/-- All that `render4` does, as one record. -/
theorem render4_eq (s : State) : render4 s =
    { s with regs := { s.regs with out := 0b1000#4 >>> (s.regs.c4 % 4), c4 := (s.regs.c4 + 1) % 2 ^ s.par.cntw } } := rfl

/-- A counter stays below `2^CNTW` (R27, R28). -/
theorem countUp_lt (cntw c : Nat) : countUp cntw c < 2 ^ cntw := Nat.mod_lt _ (Nat.two_pow_pos cntw)

/-- Counting modulo `2^CNTW` is counting modulo 4, since 4 divides `2^CNTW` (R127). -/
theorem countUp_mod_four {cntw : Nat} (h : 2 ≤ cntw) (c : Nat) : countUp cntw c % 4 = (c + 1) % 4 :=
  Nat.mod_mod_of_dvd _ (by simpa using Nat.pow_dvd_pow 2 h)

/-- `onehot4` of a selector value below 5 has bit `k-1` exactly for that `k` (R9). -/
theorem onehot4_bit : ∀ (s : Sel) (j : Fin 4), (onehot4 s.toNat).getLsbD j = true ↔ s.toNat = j + 1 := by decide

/-- `onehot4` of a legal pattern number, as a shift. -/
theorem onehot4_eq_shift : ∀ n : Nibble, 1 ≤ n.toNat → n.toNat ≤ 4 → onehot4 n.toNat = 0b0001#4 <<< (n.toNat - 1) := by
  decide

end Sys2Proof.Machine
end

