-- ==== Sys2Proof/Laws/Step.lean ====
section
/-! SUPPORT. What one instruction, one event and one step can do, said once. -/

namespace Sys2Proof.Machine

variable {s t : State}

/-! ### The meaning of each arm over its shared operation -/

theorem exec_select (n : Nibble) (s : State) : exec (.select n) s = onOperand (formN n) (fun m t => (t.setSel (m.extractLsb' 0 3)).pulse (onehot4 m.toNat)) s := rfl
theorem exec_stopAll (z : Nibble) (s : State) : exec (.stopAll z) s = onOperand (formZ z) (fun _ t => t.setSel 0) s := rfl
theorem exec_allOn (z : Nibble) (s : State) : exec (.allOn z) s = onOperand (formZ z) (fun _ t => t.setAll) s := rfl
theorem exec_allOff (z : Nibble) (s : State) : exec (.allOff z) s = onOperand (formZ z) (fun _ t => t.clearAll) s := rfl
theorem exec_setOdd (z : Nibble) (s : State) : exec (.setOdd z) s = onOperand (formZ z) (fun _ t => t.setOddLines) s := rfl
theorem exec_setEven (z : Nibble) (s : State) : exec (.setEven z) s = onOperand (formZ z) (fun _ t => t.setEvenLines) s := rfl
theorem exec_wrmask (m : Nibble) (s : State) : exec (.wrmask m) s = onOperand (formM m) State.outWrite s := rfl
theorem exec_setbit (a : Nibble) (s : State) : exec (.setbit a) s = onOperand (formI a) State.setBit s := rfl
theorem exec_clrbit (a : Nibble) (s : State) : exec (.clrbit a) s = onOperand (formI a) State.clearBit s := rfl
theorem exec_reserved0 (r : Nibble) (s : State) : exec (.reserved0 r) s = onOperand formReserved (fun _ t => t) s := rfl
theorem exec_reservedAB (r : BitVec 5) (s : State) : exec (.reservedAB r) s = onOperand formReserved (fun _ t => t) s := rfl
theorem exec_reservedCF (r : BitVec 6) (s : State) : exec (.reservedCF r) s = onOperand formReserved (fun _ t => t) s := rfl
theorem exec_tick1 (v : Nibble) (s : State) : exec (.tick1 v) s = onTick 1 v render1 s := rfl
theorem exec_tick2 (v : Nibble) (s : State) : exec (.tick2 v) s = onTick 2 v render2 s := rfl
theorem exec_tick3 (v : Nibble) (s : State) : exec (.tick3 v) s = onTick 3 v render3 s := rfl
theorem exec_tick4 (v : Nibble) (s : State) : exec (.tick4 v) s = onTick 4 v render4 s := rfl

/-- Every instruction goes on. -/
theorem exec_next (i : Instr) (s : State) : ∃ t, exec i s = .next t := by
  cases i with
  | select n => rw [exec_select]; exact onOperand_next _ _ _
  | stopAll z => rw [exec_stopAll]; exact onOperand_next _ _ _
  | allOn z => rw [exec_allOn]; exact onOperand_next _ _ _
  | allOff z => rw [exec_allOff]; exact onOperand_next _ _ _
  | setOdd z => rw [exec_setOdd]; exact onOperand_next _ _ _
  | setEven z => rw [exec_setEven]; exact onOperand_next _ _ _
  | wrmask m => rw [exec_wrmask]; exact onOperand_next _ _ _
  | setbit a => rw [exec_setbit]; exact onOperand_next _ _ _
  | clrbit a => rw [exec_clrbit]; exact onOperand_next _ _ _
  | reserved0 r => rw [exec_reserved0]; exact onOperand_next _ _ _
  | reservedAB r => rw [exec_reservedAB]; exact onOperand_next _ _ _
  | reservedCF r => rw [exec_reservedCF]; exact onOperand_next _ _ _
  | tick1 v => rw [exec_tick1]; exact onTick_next _ _ _ _
  | tick2 v => rw [exec_tick2]; exact onTick_next _ _ _ _
  | tick3 v => rw [exec_tick3]; exact onTick_next _ _ _ _
  | tick4 v => rw [exec_tick4]; exact onTick_next _ _ _ _

/-- Every event goes on. -/
theorem runEvent_next (e : Event) (s : State) : ∃ t, runEvent e s = .next t := by
  cases e with
  | reset => exact ⟨_, rfl⟩
  | cmd w => exact exec_next _ s
  | tick v =>
    simp only [runEvent]
    split
    · exact exec_next _ s
    · exact ⟨_, rfl⟩

/-- A performed or rejected command keeps parameters and inputs if its action does. -/
theorem onOperand_keeps {α : Type} {o : Except Resp α} {act : α → State → State}
    (h : onOperand o act s = .next t)
    (hact : ∀ a u, (act a u).par = u.par ∧ (act a u).pending = u.pending ∧ (act a u).cycles = u.cycles) : t.par = s.par ∧ t.pending = s.pending ∧ t.cycles = s.cycles := by
  obtain ⟨c, -, rfl⟩ | ⟨a, -, rfl⟩ := onOperand_cases h
  · exact ⟨rfl, rfl, rfl⟩
  · simpa using hact a s.beginStep

/-- An accepted or dropped tick keeps parameters and inputs if its render does. -/
theorem onTick_keeps {k : Nat} {v : Nibble} {render : State → State}
    (h : onTick k v render s = .next t)
    (hr : ∀ u, (render u).par = u.par ∧ (render u).pending = u.pending ∧ (render u).cycles = u.cycles) : t.par = s.par ∧ t.pending = s.pending ∧ t.cycles = s.cycles := by
  obtain ⟨-, rfl⟩ | ⟨-, rfl⟩ := onTick_cases h
  · simpa using hr s.beginStep
  · exact ⟨rfl, rfl, rfl⟩

/-- No instruction writes the parameters or the inputs still to come. -/
theorem exec_keeps {i : Instr} (h : exec i s = .next t) :
    t.par = s.par ∧ t.pending = s.pending ∧ t.cycles = s.cycles := by
  cases i with
  | select n => rw [exec_select] at h; exact onOperand_keeps h fun _ _ => ⟨rfl, rfl, rfl⟩
  | stopAll z => rw [exec_stopAll] at h; exact onOperand_keeps h fun _ _ => ⟨rfl, rfl, rfl⟩
  | allOn z => rw [exec_allOn] at h; exact onOperand_keeps h fun _ _ => ⟨rfl, rfl, rfl⟩
  | allOff z => rw [exec_allOff] at h; exact onOperand_keeps h fun _ _ => ⟨rfl, rfl, rfl⟩
  | setOdd z => rw [exec_setOdd] at h; exact onOperand_keeps h fun _ _ => ⟨rfl, rfl, rfl⟩
  | setEven z => rw [exec_setEven] at h; exact onOperand_keeps h fun _ _ => ⟨rfl, rfl, rfl⟩
  | wrmask m => rw [exec_wrmask] at h; exact onOperand_keeps h fun _ _ => ⟨rfl, rfl, rfl⟩
  | setbit a => rw [exec_setbit] at h; exact onOperand_keeps h fun _ _ => ⟨rfl, rfl, rfl⟩
  | clrbit a => rw [exec_clrbit] at h; exact onOperand_keeps h fun _ _ => ⟨rfl, rfl, rfl⟩
  | reserved0 r => rw [exec_reserved0] at h; exact onOperand_keeps h fun _ _ => ⟨rfl, rfl, rfl⟩
  | reservedAB r => rw [exec_reservedAB] at h; exact onOperand_keeps h fun _ _ => ⟨rfl, rfl, rfl⟩
  | reservedCF r => rw [exec_reservedCF] at h; exact onOperand_keeps h fun _ _ => ⟨rfl, rfl, rfl⟩
  | tick1 v => rw [exec_tick1] at h; exact onTick_keeps h fun u => by simp [render1_eq]
  | tick2 v => rw [exec_tick2] at h; exact onTick_keeps h fun u => by simp [render2_eq]
  | tick3 v => rw [exec_tick3] at h; exact onTick_keeps h fun _ => ⟨rfl, rfl, rfl⟩
  | tick4 v => rw [exec_tick4] at h; exact onTick_keeps h fun _ => ⟨rfl, rfl, rfl⟩

/-- Taking the next event changes nothing but the inputs. -/
theorem nextEvent_keeps (s : State) :
    s.nextEvent.2.par = s.par ∧ s.nextEvent.2.regs = s.regs ∧ s.nextEvent.2.outputs = s.outputs := by
  unfold State.nextEvent
  split
  · exact ⟨rfl, rfl, rfl⟩
  · split
    · exact ⟨rfl, rfl, rfl⟩
    · split <;> exact ⟨rfl, rfl, rfl⟩

/-- What the machine does in one event: reset, a command, a dropped tick, or one of the four renders. -/
theorem runEvent_cases {e : Event} (h : runEvent e s = .next t) :
    (e = .reset ∧ t = s.resetEvent) ∨
    (∃ w, e = .cmd w ∧ exec (decodeCmd w) s = .next t) ∨
    (∃ v, e = .tick v ∧ (s.regs.sel = 0 ∨ v.getLsbD (s.regs.sel.toNat - 1) = false) ∧ t = s.beginStep) ∨
    (∃ v, e = .tick v ∧ s.regs.sel = 1 ∧ v.getLsbD 0 = true ∧ t = render1 s.beginStep) ∨
    (∃ v, e = .tick v ∧ s.regs.sel = 2 ∧ v.getLsbD 1 = true ∧ t = render2 s.beginStep) ∨
    (∃ v, e = .tick v ∧ s.regs.sel = 3 ∧ v.getLsbD 2 = true ∧ t = render3 s.beginStep) ∨
    (∃ v, e = .tick v ∧ s.regs.sel = 4 ∧ v.getLsbD 3 = true ∧ t = render4 s.beginStep) := by
  cases e with
  | reset => exact .inl ⟨rfl, (Host.Outcome.next.inj h).symm⟩
  | cmd w => exact .inr (.inl ⟨w, rfl, h⟩)
  | tick v =>
    simp only [runEvent] at h
    split at h
    next i hd =>
      obtain ⟨hs, hv, rfl⟩ | ⟨hs, hv, rfl⟩ | ⟨hs, hv, rfl⟩ | ⟨hs, hv, rfl⟩ := decodeTick_some hd
      · rw [exec_tick1,
          onTick_accepted (tickAccepted_iff.2 ⟨by rw [hs]; rfl, hv⟩)] at h
        exact .inr (.inr (.inr (.inl ⟨v, rfl, hs, hv, (Host.Outcome.next.inj h).symm⟩)))
      · rw [exec_tick2,
          onTick_accepted (tickAccepted_iff.2 ⟨by rw [hs]; rfl, hv⟩)] at h
        exact .inr (.inr (.inr (.inr (.inl ⟨v, rfl, hs, hv, (Host.Outcome.next.inj h).symm⟩))))
      · rw [exec_tick3,
          onTick_accepted (tickAccepted_iff.2 ⟨by rw [hs]; rfl, hv⟩)] at h
        exact .inr (.inr (.inr (.inr (.inr (.inl ⟨v, rfl, hs, hv, (Host.Outcome.next.inj h).symm⟩)))))
      · rw [exec_tick4,
          onTick_accepted (tickAccepted_iff.2 ⟨by rw [hs]; rfl, hv⟩)] at h
        exact .inr (.inr (.inr (.inr (.inr (.inr ⟨v, rfl, hs, hv, (Host.Outcome.next.inj h).symm⟩)))))
    next hd =>
      exact .inr (.inr (.inl ⟨v, rfl, decodeTick_none_iff.1 hd, (Host.Outcome.next.inj h).symm⟩))

/-- A step is its next event's effect, or a quiet step. -/
theorem step_cases (h : step s = .next t) :
    (∃ u, s.nextEvent = (none, u) ∧ t = u.beginStep) ∨ (∃ e u, s.nextEvent = (some e, u) ∧ runEvent e u = .next t) := by
  unfold step takeStep at h
  split at h
  next e u he => exact .inr ⟨e, u, he, h⟩
  next u he => exact .inl ⟨u, he, (Host.Outcome.next.inj h).symm⟩

/-- The step of a pending event. -/
theorem step_pending {e : Event} {es : List Event} (h : s.pending = e :: es) :
    step s = runEvent e { s with pending := es } := by
  simp [step, takeStep, State.nextEvent, h]

theorem steps_succ (n : Nat) (h : step s = .next t) : steps (n + 1) s = steps n t := by simp [steps, h]

end Sys2Proof.Machine
end

