-- ==== Sys2Proof/Laws/Command.lean ====
section
/-! SUPPORT. What a command word can do, said once over the tables of Safety.lean: select, stop, or write `OUT` at most,
with one response. -/

namespace Sys2Proof.Machine

variable {s t : State}

/-- A command word is what its instruction encodes. -/
theorem encode_decodeCmd : ∀ w : CmdWord, (decodeCmd w).encode = .cmd w := by decide

theorem select_word : ∀ n : Nibble, 0b0001#4 ++ n = 0x10#8 ||| n.setWidth 8 := by decide

theorem decodeCmd_select_word : ∀ n : Nibble, decodeCmd (0x10#8 ||| n.setWidth 8) = .select n := by decide

/-- `n[2:0]`, zero-extended to 3 bits, is the truncation. -/
theorem lowBits_eq : ∀ n : Nibble, n.extractLsb' 0 3 = n.setWidth 3 := by decide

theorem select_word_inj : ∀ n m : Nibble, (0x10#8 ||| n.setWidth 8 : CmdWord) = 0x10#8 ||| m.setWidth 8 → n = m := by
  decide

/-- A word is an accepted SELECT of one pattern at most. -/
theorem isSelect_unique {n m : Nibble} {e : Event} (hn : IsSelect n e) (hm : IsSelect m e) : n = m :=
  select_word_inj n m (Event.cmd.inj (hn.2.2.symm.trans hm.2.2))

/-- A word that is no SELECT word is no accepted SELECT. -/
theorem not_isSelect {w : CmdWord} (h : ∀ n, decodeCmd w ≠ .select n) (n : Nibble) : ¬ IsSelect n (.cmd w) :=
  fun hn => h n (by rw [Event.cmd.inj hn.2.2]; exact decodeCmd_select_word n)

/-- The third case of `command_cases`: `OUT` is written with the word's mask, or not at all, and nothing else is. -/
def WritesOut (w : CmdWord) (s t : State) : Prop :=
  ∃ c, t = { s with
    regs := { s.regs with out := (maskOfCmd s.regs.out w).getD s.regs.out }
    outputs := { tmrStart := 0b0000, resp := some c } }

/-- A rejected word that writes no mask. -/
theorem reject_writesOut {w : CmdWord} {c : Resp} (hm : maskOfCmd s.regs.out w = none)
    (h : Host.Outcome.next (s.reject c) = (.next t : Result)) : WritesOut w s t :=
  ⟨c, by rw [hm, ← Host.Outcome.next.inj h]; rfl⟩

/-- A performed word that writes the mask `m`. -/
theorem write_writesOut {w : CmdWord} {m : Nibble} (hm : maskOfCmd s.regs.out w = some m)
    (h : Host.Outcome.next ((s.beginStep.outWrite m).respond .ok) = (.next t : Result)) : WritesOut w s t :=
  ⟨.ok, by rw [hm, ← Host.Outcome.next.inj h]; rfl⟩

/-! ### The masks of the command words, by opcode -/

theorem mask_select : ∀ o n : Nibble, maskOfCmd o (0b0001#4 ++ n) = none := by decide
theorem mask_stopAll : ∀ o z : Nibble, maskOfCmd o (0b0010#4 ++ z) = none := by decide
theorem mask_allOn : ∀ o z : Nibble, maskOfCmd o (0b0011#4 ++ z) = if z = 0 then some 0b1111 else none := by decide
theorem mask_allOff : ∀ o z : Nibble, maskOfCmd o (0b0100#4 ++ z) = if z = 0 then some 0b0000 else none := by decide
theorem mask_setOdd : ∀ o z : Nibble, maskOfCmd o (0b0101#4 ++ z) = if z = 0 then some 0b0101 else none := by decide
theorem mask_setEven : ∀ o z : Nibble, maskOfCmd o (0b0110#4 ++ z) = if z = 0 then some 0b1010 else none := by decide
theorem mask_wrmask : ∀ o m : Nibble, maskOfCmd o (0b0111#4 ++ m) = some m := by decide
theorem mask_setbit : ∀ o a : Nibble, maskOfCmd o (0b1000#4 ++ a) =
    if a.toNat < 4 then some (o ||| (0b0001#4 <<< (a.extractLsb' 0 2).toNat)) else none := by decide
theorem mask_clrbit : ∀ o a : Nibble, maskOfCmd o (0b1001#4 ++ a) =
    if a.toNat < 4 then some (o &&& ~~~(0b0001#4 <<< (a.extractLsb' 0 2).toNat)) else none := by decide
theorem mask_reserved0 : ∀ o r : Nibble, maskOfCmd o (0b0000#4 ++ r) = none := by decide
theorem mask_reservedAB : ∀ (o : Nibble) (r : BitVec 5), maskOfCmd o (0b101#3 ++ r) = none := by decide
theorem mask_reservedCF : ∀ (o : Nibble) (r : BitVec 6), maskOfCmd o (0b11#2 ++ r) = none := by decide

/-- A command without operand that writes a fixed mask. -/
theorem fixedMask_writesOut {w : CmdWord} {z m : Nibble} {act : State → State}
    (hm : maskOfCmd s.regs.out w = if z = 0 then some m else none) (hact : act s.beginStep = s.beginStep.outWrite m)
    (h : onOperand (formZ z) (fun _ u => act u) s = .next t) : WritesOut w s t := by
  by_cases hz : z = 0
  · rw [if_pos hz] at hm
    subst hz
    rw [formZ_zero, onOperand_ok, hact] at h
    exact write_writesOut hm h
  · rw [if_neg hz] at hm
    rw [formZ_nonzero hz, onOperand_error] at h
    exact reject_writesOut hm h

/-- What a command word does: an accepted SELECT, STOP_ALL, or a write of `OUT` at most. -/
theorem command_cases {w : CmdWord} (h : exec (decodeCmd w) s = .next t) :
    (∃ n, IsSelect n (.cmd w) ∧ t = { s with
      regs := { s.regs with sel := n.setWidth 3 }
      outputs := { tmrStart := 0b0001#4 <<< (n.toNat - 1), resp := some .ok } }) ∨
    ((∀ n, ¬ IsSelect n (.cmd w)) ∧
      ((w = 0x20 ∧ t = { s with
          regs := { s.regs with sel := 0 }, outputs := { tmrStart := 0b0000, resp := some .ok } }) ∨
       (w ≠ 0x20 ∧ WritesOut w s t))) := by
  have henc := encode_decodeCmd w
  have hfmt := decodeCmd_format w
  have hstop : w = 0x20 → decodeCmd w = .stopAll 0 := by rintro rfl; decide
  have hsel := @not_isSelect w
  generalize decodeCmd w = i at *
  cases i with
  | select n =>
    have hw := Event.cmd.inj henc
    rw [exec_select] at h
    by_cases hn : 1 ≤ n.toNat ∧ n.toNat ≤ 4
    · refine .inl ⟨n, ⟨hn.1, hn.2, by rw [← hw, select_word]⟩, ?_⟩
      rw [formN_legal hn, onOperand_ok] at h
      rw [← Host.Outcome.next.inj h, ← onehot4_eq_shift n hn.1 hn.2, ← lowBits_eq]; rfl
    · refine .inr ⟨?_, .inr ⟨fun h => by simpa using hstop h, ?_⟩⟩
      · rintro m ⟨h1, h2, h3⟩
        rw [← hw, select_word, Event.cmd.injEq] at h3
        exact hn (select_word_inj n m h3 ▸ ⟨h1, h2⟩)
      · rw [formN_illegal hn, onOperand_error] at h
        exact reject_writesOut (hw ▸ mask_select _ n) h
  | stopAll z =>
    have hw := Event.cmd.inj henc
    rw [exec_stopAll] at h
    refine .inr ⟨hsel (by simp), ?_⟩
    by_cases hz : z = 0
    · subst hz
      exact .inl ⟨by rw [← hw]; decide, (Host.Outcome.next.inj h).symm⟩
    · refine .inr ⟨fun h => hz (by simpa using hstop h), ?_⟩
      rw [formZ_nonzero hz, onOperand_error] at h
      exact reject_writesOut (hw ▸ mask_stopAll _ z) h
  | allOn z =>
    rw [exec_allOn] at h
    exact .inr ⟨hsel (by simp), .inr ⟨fun h => by simpa using hstop h,
      fixedMask_writesOut (Event.cmd.inj henc ▸ mask_allOn _ z) rfl h⟩⟩
  | allOff z =>
    rw [exec_allOff] at h
    exact .inr ⟨hsel (by simp), .inr ⟨fun h => by simpa using hstop h,
      fixedMask_writesOut (Event.cmd.inj henc ▸ mask_allOff _ z) rfl h⟩⟩
  | setOdd z =>
    rw [exec_setOdd] at h
    exact .inr ⟨hsel (by simp), .inr ⟨fun h => by simpa using hstop h,
      fixedMask_writesOut (Event.cmd.inj henc ▸ mask_setOdd _ z) rfl h⟩⟩
  | setEven z =>
    rw [exec_setEven] at h
    exact .inr ⟨hsel (by simp), .inr ⟨fun h => by simpa using hstop h,
      fixedMask_writesOut (Event.cmd.inj henc ▸ mask_setEven _ z) rfl h⟩⟩
  | wrmask m =>
    exact .inr ⟨hsel (by simp), .inr ⟨fun h => by simpa using hstop h,
      write_writesOut (Event.cmd.inj henc ▸ mask_wrmask _ m) h⟩⟩
  | setbit a =>
    have hm := mask_setbit s.regs.out a
    rw [Event.cmd.inj henc] at hm
    rw [exec_setbit] at h
    refine .inr ⟨hsel (by simp), .inr ⟨fun h => by simpa using hstop h, ?_⟩⟩
    by_cases ha : a.toNat < 4
    · rw [formI_legal ha, onOperand_ok] at h
      exact write_writesOut (hm.trans (if_pos ha)) h
    · rw [formI_illegal (Nat.le_of_not_lt ha), onOperand_error] at h
      exact reject_writesOut (hm.trans (if_neg ha)) h
  | clrbit a =>
    have hm := mask_clrbit s.regs.out a
    rw [Event.cmd.inj henc] at hm
    rw [exec_clrbit] at h
    refine .inr ⟨hsel (by simp), .inr ⟨fun h => by simpa using hstop h, ?_⟩⟩
    by_cases ha : a.toNat < 4
    · rw [formI_legal ha, onOperand_ok] at h
      exact write_writesOut (hm.trans (if_pos ha)) h
    · rw [formI_illegal (Nat.le_of_not_lt ha), onOperand_error] at h
      exact reject_writesOut (hm.trans (if_neg ha)) h
  | reserved0 r =>
    exact .inr ⟨hsel (by simp), .inr ⟨fun h => by simpa using hstop h,
      reject_writesOut (Event.cmd.inj henc ▸ mask_reserved0 _ r) h⟩⟩
  | reservedAB r =>
    exact .inr ⟨hsel (by simp), .inr ⟨fun h => by simpa using hstop h,
      reject_writesOut (Event.cmd.inj henc ▸ mask_reservedAB _ r) h⟩⟩
  | reservedCF r =>
    exact .inr ⟨hsel (by simp), .inr ⟨fun h => by simpa using hstop h,
      reject_writesOut (Event.cmd.inj henc ▸ mask_reservedCF _ r) h⟩⟩
  | tick1 v => cases henc
  | tick2 v => cases henc
  | tick3 v => cases henc
  | tick4 v => cases henc

end Sys2Proof.Machine
end

