-- ==== Sys2Proof/Laws/PerInstr.lean ====
section
/-! SUPPORT. The family TableRow: the encoding of an instruction that an input encodes carries the match of its row of
opcode_table.json under the row's mask, on the port of its format. -/

namespace Sys2Proof.Laws.TableRow

/-- The bits of `i`'s encoding meet `i`'s row, and the event is on the port of `i`'s format. -/
def Statement (i : Instr) : Prop :=
  i.Encodable →
    i.encode.bits &&& i.tableRow.1 = i.tableRow.2 ∧
    (i.format = .cmd ↔ ∃ w, i.encode = .cmd w) ∧ (i.format = .tick ↔ ∃ v, i.encode = .tick v)

theorem cmd_row {i : Instr} {w : CmdWord} (hf : i.format = .cmd) (he : i.encode = .cmd w)
    (hw : w &&& i.tableRow.1 = i.tableRow.2) : Statement i := fun _ => by simp [hf, he, Event.bits, hw]

theorem tick_row {i : Instr} {v : Nibble} (hf : i.format = .tick) (he : i.encode = .tick v)
    (hv : i.Encodable → v.setWidth 8 &&& i.tableRow.1 = i.tableRow.2) : Statement i := fun h => by
  simp [hf, he, Event.bits, hv h]

theorem select (n : Nibble) : Statement (.select n) := cmd_row rfl rfl (by revert n; decide)
theorem stopAll (z : Nibble) : Statement (.stopAll z) := cmd_row rfl rfl (by revert z; decide)
theorem allOn (z : Nibble) : Statement (.allOn z) := cmd_row rfl rfl (by revert z; decide)
theorem allOff (z : Nibble) : Statement (.allOff z) := cmd_row rfl rfl (by revert z; decide)
theorem setOdd (z : Nibble) : Statement (.setOdd z) := cmd_row rfl rfl (by revert z; decide)
theorem setEven (z : Nibble) : Statement (.setEven z) := cmd_row rfl rfl (by revert z; decide)
theorem wrmask (m : Nibble) : Statement (.wrmask m) := cmd_row rfl rfl (by revert m; decide)
theorem setbit (a : Nibble) : Statement (.setbit a) := cmd_row rfl rfl (by revert a; decide)
theorem clrbit (a : Nibble) : Statement (.clrbit a) := cmd_row rfl rfl (by revert a; decide)
theorem reserved0 (r : Nibble) : Statement (.reserved0 r) := cmd_row rfl rfl (by revert r; decide)
theorem reservedAB (r : BitVec 5) : Statement (.reservedAB r) := cmd_row rfl rfl (by revert r; decide)
theorem reservedCF (r : BitVec 6) : Statement (.reservedCF r) := cmd_row rfl rfl (by revert r; decide)
theorem tick1 (v : Nibble) : Statement (.tick1 v) := tick_row rfl rfl (by revert v; decide)
theorem tick2 (v : Nibble) : Statement (.tick2 v) := tick_row rfl rfl (by revert v; decide)
theorem tick3 (v : Nibble) : Statement (.tick3 v) := tick_row rfl rfl (by revert v; decide)
theorem tick4 (v : Nibble) : Statement (.tick4 v) := tick_row rfl rfl (by revert v; decide)

end Sys2Proof.Laws.TableRow
end

