-- ==== Sys2Proof/Tests/Slice0.lean ====
section
/-! SUPPORT. Tests. Expected values are from 95_test_vectors.md (L1 and L2) or read off the encodings of 30_encoding.md,
never from the model. The witnesses at the end show, for each obligation with hypotheses, values that meet them. -/

namespace Sys2Proof.Tests

open Sys2Proof Sys2Proof.Machine

/-- The elements an event leaves. -/
def regsAfter (e : Event) (s : State) : Option Regs :=
  match runEvent e s with
  | .next t => some t.regs
  | .fault _ => none
  | .refused _ => none

/-- The outputs of an event: tmr_start and the response. -/
def outputsAfter (e : Event) (s : State) : Option Outputs :=
  match runEvent e s with
  | .next t => some t.outputs
  | .fault _ => none
  | .refused _ => none

/-- A state with these elements, default parameters and no input. -/
def withRegs (r : Regs) : State := { State.reset with regs := r }

/-- The start state of the vectors L2.1. -/
def l21 : Regs := { sel := 2, f1 := true, f2 := false, c3 := 1, c4 := 3, out := 0b0110 }

/-- A state that is running a pattern from reset's values. -/
def running (k : Sel) : State := withRegs { State.reset.regs with sel := k }

/-! ### Decoding: words written out from R63 -/

theorem test_decode_selection :
    decodeCmd 0b00010100#8 = .select 4 ∧ decodeCmd 0b00011100#8 = .select 12 ∧ decodeCmd 0b00100000#8 = .stopAll 0 ∧
    decodeCmd 0b00100001#8 = .stopAll 1 := by decide

theorem test_decode_output :
    decodeCmd 0b00110000#8 = .allOn 0 ∧ decodeCmd 0b01000000#8 = .allOff 0 ∧ decodeCmd 0b01010000#8 = .setOdd 0 ∧
    decodeCmd 0b01100000#8 = .setEven 0 ∧ decodeCmd 0b01111010#8 = .wrmask 0b1010 ∧
    decodeCmd 0b10000011#8 = .setbit 3 ∧ decodeCmd 0b10010001#8 = .clrbit 1 := by decide

theorem test_decode_reserved :
    decodeCmd 0b00000001#8 = .reserved0 1 ∧ decodeCmd 0b10100101#8 = .reservedAB 0b00101 ∧
    decodeCmd 0b10111111#8 = .reservedAB 0b11111 ∧ decodeCmd 0b11000000#8 = .reservedCF 0 ∧
    decodeCmd 0b11111111#8 = .reservedCF 0b111111 := by decide

/-- R66: bit k-1 of the vector is source k, and only bit SEL-1 is looked at. -/
theorem test_decode_ticks :
    decodeTick 1 0b0001#4 = some (.tick1 0b0001) ∧ decodeTick 2 0b1111#4 = some (.tick2 0b1111) ∧
    decodeTick 3 0b0100#4 = some (.tick3 0b0100) ∧ decodeTick 4 0b1000#4 = some (.tick4 0b1000) ∧
    decodeTick 4 0b0111#4 = none ∧ decodeTick 0 0b1111#4 = none := by decide

/-- The table's words, each as its row. -/
theorem test_table_words :
    decodeTableWord 8 0x10 = some (.select 0) ∧ decodeTableWord 8 0x20 = some (.stopAll 0) ∧
    decodeTableWord 8 0x7F = some (.wrmask 0xF) ∧ decodeTableWord 8 0x00 = some (.reserved0 0) ∧
    decodeTableWord 8 0xA0 = some (.reservedAB 0) ∧ decodeTableWord 8 0xC0 = some (.reservedCF 0) ∧
    decodeTableWord 8 0x1 = some (.tick1 1) ∧ decodeTableWord 4 0x2 = some (.tick2 2) ∧
    decodeTableWord 8 0x4 = some (.tick3 4) ∧ decodeTableWord 4 0x8 = some (.tick4 8) := by decide

/-- A table word put before the next step is run by it, a tick of pattern 4 by its render. -/
theorem test_fetch_word_runs :
    (match step (State.reset.withFetchWord 8 0x8) with | .next t => some t.regs.out | _ => none) = some 0b1000#4 ∧
    (match step (State.reset.withFetchWord 8 0x30) with | .next t => some t.regs.out | _ => none) = some 0b1111#4 := by
  decide

/-! ### WellFormed: an ill-formed term for each check -/

theorem test_smoke_pattern_index : ¬ (Instr.select 0).WellFormed ∧ ¬ (Instr.select 5).WellFormed := by decide
theorem test_smoke_zero_operand : ¬ (Instr.stopAll 1).WellFormed ∧ ¬ (Instr.setEven 8).WellFormed := by decide
theorem test_smoke_bit_index : ¬ (Instr.setbit 4).WellFormed ∧ ¬ (Instr.clrbit 8).WellFormed := by decide
theorem test_smoke_reserved : ¬ (Instr.reserved0 0).WellFormed ∧ ¬ (Instr.reservedCF 1).WellFormed := by decide
theorem test_smoke_tick_bit : ¬ (Instr.tick1 0b1110).WellFormed ∧ ¬ (Instr.tick4 0b0111).WellFormed := by decide
theorem test_smoke_legal : (Instr.select 4).WellFormed ∧ (Instr.setbit 3).WellFormed ∧ (Instr.tick2 0b0010).WellFormed := by
  decide

/-! ### Commands: the vectors L2.1 to L2.3 -/

theorem test_select_4 : regsAfter (.cmd 0x14) (withRegs l21) = some { l21 with sel := 4 } ∧
    outputsAfter (.cmd 0x14) (withRegs l21) = some ⟨0b1000, some .ok⟩ := by decide

theorem test_select_12_is_not_clamped : regsAfter (.cmd 0x1C) (withRegs l21) = some l21 ∧
    outputsAfter (.cmd 0x1C) (withRegs l21) = some ⟨0b0000, some .badIndex⟩ := by decide

theorem test_stop_all : regsAfter (.cmd 0x20) (withRegs l21) = some { l21 with sel := 0 } ∧
    outputsAfter (.cmd 0x21) (withRegs l21) = some ⟨0b0000, some .badArg⟩ := by decide

theorem test_all_on : regsAfter (.cmd 0x30) (withRegs l21) = some { l21 with out := 0b1111 } ∧
    regsAfter (.cmd 0x3F) (withRegs l21) = some l21 := by decide

theorem test_all_off : regsAfter (.cmd 0x40) (withRegs l21) = some { l21 with out := 0b0000 } ∧
    outputsAfter (.cmd 0x48) (withRegs l21) = some ⟨0b0000, some .badArg⟩ := by decide

theorem test_set_odd : regsAfter (.cmd 0x50) (withRegs l21) = some { l21 with out := 0b0101 } := by decide

theorem test_set_even : regsAfter (.cmd 0x60) (withRegs l21) = some { l21 with out := 0b1010 } := by decide

theorem test_wrmask : regsAfter (.cmd 0x7A) (withRegs l21) = some { l21 with out := 0b1010 } ∧
    regsAfter (.cmd 0x76) (withRegs l21) = some l21 := by decide

theorem test_setbit : regsAfter (.cmd 0x83) (withRegs l21) = some { l21 with out := 0b1110 } ∧
    outputsAfter (.cmd 0x84) (withRegs l21) = some ⟨0b0000, some .badArg⟩ := by decide

theorem test_clrbit : regsAfter (.cmd 0x92) (withRegs l21) = some { l21 with out := 0b0010 } ∧
    regsAfter (.cmd 0x97) (withRegs l21) = some l21 := by decide

theorem test_reserved : regsAfter (.cmd 0xA5) (withRegs l21) = some l21 ∧
    outputsAfter (.cmd 0x00) (withRegs l21) = some ⟨0b0000, some .badOpcode⟩ ∧
    outputsAfter (.cmd 0xFF) (withRegs l21) = some ⟨0b0000, some .badOpcode⟩ := by decide

/-! ### Ticks: the vectors L2.4, and L2.6 for reset -/

theorem test_tick1 : regsAfter (.tick 0b0001) (running 1) = some { (running 1).regs with f1 := false, out := 0b1111 } := by
  decide

theorem test_tick2_counts_its_bit_only :
    regsAfter (.tick 0b1111) (withRegs l21) = some { l21 with f2 := true, out := 0b1010 } ∧
    regsAfter (.tick 0b0101) (withRegs l21) = some l21 := by decide

theorem test_tick3_wraps : regsAfter (.tick 0b0100) (withRegs { l21 with sel := 3, c3 := 3 }) =
    some { l21 with sel := 3, c3 := 0, out := 0b1000 } := by decide

/-- CNTW = 3: the counter passes 4 and the mask is that of the counter modulo 4. -/
theorem test_tick3_wide_counter :
    regsAfter (.tick 0b0100) { withRegs { l21 with sel := 3, c3 := 4 } with par := { Params.defaults with cntw := 3 } } =
      some { l21 with sel := 3, c3 := 5, out := 0b0001 } := by decide

theorem test_tick4_wraps : regsAfter (.tick 0b1000) (withRegs { l21 with sel := 4, c4 := 3 }) =
    some { l21 with sel := 4, c4 := 0, out := 0b0001 } := by decide

theorem test_idle_drops_ticks : regsAfter (.tick 0b1111) State.reset = some State.reset.regs := by decide

theorem test_reset_with_other_parameters :
    regsAfter .reset { withRegs l21 with
      par := { Params.defaults with seed1 := false, seed2 := false, outInit := 0b1111 } } =
      some { sel := 0, f1 := false, f2 := false, c3 := 0, c4 := 0, out := 0b1111 } := by decide

/-! ### Ports and text -/

/-- L2.5: the tick before the command, reset alone. -/
theorem test_cycle_order :
    PortInputs.events ⟨false, true, 0x13, 0b0001⟩ = [.tick 0b0001, .cmd 0x13] ∧
    PortInputs.events ⟨true, true, 0x30, 0b1111⟩ = [.reset] := by decide

/-- R32: with ACTIVE_LOW the lines are the complement of `OUT`; `tmr_run` is the selected source. -/
theorem test_ports : (withRegs l21).line = 0b0110 ∧ ((withRegs l21).withPolarity .activeLow).line = 0b1001 ∧
    (withRegs l21).tmrRun = 0b0010 := by decide

/-- Any number of digits is taken (log 13) if the value is in range (R68). -/
theorem test_assembler_digit_counts : assembleLine ".word 0x5" = some [.cmd 0x05] ∧
    assembleLine "TICKV 0b1" = some [.tick 0b0001] ∧ assembleLine "SELECT 0005" = none := by decide

/-- R68: operands in three bases, comments, an alias, `.word`, a refused operand, and IDLE. -/
theorem test_assembler :
    assembleLine "SELECT 3 ; start" = some [.cmd 0x13] ∧ assembleLine "SELECT 5" = none ∧
    assembleLine "writeMask 0b1010" = some [.cmd 0x7A] ∧ assembleLine ".word 0xA5" = some [.cmd 0xA5] ∧
    assembleLine "TICK 4" = some [.tick 0b1000] ∧ assembleLine "IDLE" = some [.cmd 0x20, .cmd 0x40] := by decide

/-! ### Witnesses of the obligations' hypotheses -/

theorem witness_DecodeInvertsEncode : (Instr.reservedCF 63).Encodable ∧ (Instr.reservedCF 63).format = .cmd ∧
    (Instr.tick4 0b1000).Encodable ∧ (Instr.tick4 0b1000).format = .tick := by decide

theorem witness_EncodeInvertsDecode : decode 4 (.tick 0b1000) = some (.tick4 0b1000) ∧
    decode 0 (.cmd 0xFF) = some (.reservedCF 63) := by decide

theorem witness_EveryWordMatchesItsRowOnly : (Instr.select 0).format = .cmd := by decide

/-- `s` with one event waiting. -/
def waiting (s : State) (e : Event) : State := s.withEvent e

theorem witness_StepRunsTheDecodedInstruction :
    (waiting (running 4) (.tick 0b1000)).nextEvent = (some (.tick 0b1000), running 4) ∧
    decode (running 4).regs.sel (.tick 0b1000) = some (.tick4 0b1000) := by decide

theorem witness_EventsAreTakenInOrder :
    (waiting State.reset (.cmd 0x30)).pending = [.cmd 0x30] ∧
    PortInputs.events ⟨false, true, 0x30, 0b0000⟩ = [.cmd 0x30] ∧
    PortInputs.events ⟨false, false, 0x30, 0b0000⟩ = [] ∧
    State.reset.pending = [] ∧ State.reset.cycles = [] := by decide

theorem witness_NoEventNoChange : State.reset.nextEvent = (none, State.reset) := by decide

/-- For the statements over one step: a step from a state that meets the invariant. -/
theorem witness_step : ∃ s t, s.Inv ∧ step s = .next t := ⟨State.reset, _, by decide, rfl⟩

theorem witness_RejectedCommandChangesNothing : (Instr.select 5).format = .cmd ∧ ¬ (Instr.select 5).WellFormed := by
  decide

theorem witness_IllegalWordsAreRejected :
    (0x0F#8).toNat / 16 = 0 ∧ 10 ≤ (0xA0#8).toNat / 16 ∧
    (1 ≤ (0x10#8).toNat / 16 ∧ (0x10#8).toNat / 16 ≤ 9 ∧ ¬ (decodeCmd 0x10#8).WellFormed) ∧
    (1 ≤ (0x94#8).toNat / 16 ∧ (0x94#8).toNat / 16 ≤ 9 ∧ ¬ (decodeCmd 0x94#8).WellFormed) := by decide

theorem witness_FixedMaskCommands : (1 : Nibble) ≠ 0 ∧ Instr.setEven 1 ∈ [Instr.allOn 1, .allOff 1, .setOdd 1, .setEven 1] := by
  decide

theorem witness_WriteMaskCommand : ∃ t, (0b0000 : Nibble) = State.reset.regs.out ∧ exec (.wrmask 0b0000) State.reset = .next t :=
  ⟨_, rfl, rfl⟩

/-- SETBIT and CLRBIT at the two sides of their range. -/
theorem witness_SetBitCommand : (3 : Nibble).toNat < 4 ∧ 4 ≤ (4 : Nibble).toNat := by decide

theorem witness_ClearBitCommand : (0 : Nibble).toNat < 4 ∧ 4 ≤ (15 : Nibble).toNat := by decide

theorem witness_OutputCommandFrame : isOutputCommand (.clrbit 3) = true ∧ (Instr.clrbit 3).WellFormed := by decide

theorem witness_OutputCommandsAreIdempotent : isOutputCommand (.clrbit 4) = true := by decide

theorem witness_SelectCommand : (1 ≤ (1 : Nibble).toNat ∧ (1 : Nibble).toNat ≤ 4) ∧ (1 ≤ (4 : Nibble).toNat ∧ (4 : Nibble).toNat ≤ 4) ∧
    ¬ (1 ≤ (0 : Nibble).toNat ∧ (0 : Nibble).toNat ≤ 4) ∧ ¬ (1 ≤ (5 : Nibble).toNat ∧ (5 : Nibble).toNat ≤ 4) := by decide

theorem witness_StopAllCommand : (0b0000 : Nibble) = 0 ∧ (0b1000 : Nibble) ≠ 0 := by decide

theorem witness_SelectionFrame : ∃ i, (∃ n, i = Instr.select n) ∨ ∃ z, i = Instr.stopAll z := ⟨.select 1, .inl ⟨1, rfl⟩⟩

theorem witness_OnlyTheSelectedSourceIsEnabled : (running 4).en.getLsbD 3 = true ∧ (running 1).en.getLsbD 0 = true := by
  decide

theorem witness_OnlySelectPulsesAStart :
    (waiting State.reset (.cmd 0x14)).nextEvent.1 = some (.cmd 0x14) ∧ IsSelect 4 (.cmd 0x14) ∧
    (∀ n, ¬ IsSelect n (.cmd 0x15)) := by decide

theorem witness_TicksPassOnlyTheGate :
    (waiting (running 1) (.tick 0b0001)).nextEvent = (some (.tick 0b0001), running 1) ∧ (running 1).regs.sel = 1 ∧
    (waiting (running 2) (.tick 0b0010)).nextEvent = (some (.tick 0b0010), running 2) ∧ (running 2).regs.sel = 2 ∧
    (waiting (running 3) (.tick 0b0100)).nextEvent = (some (.tick 0b0100), running 3) ∧ (running 3).regs.sel = 3 ∧
    (waiting (running 4) (.tick 0b1000)).nextEvent = (some (.tick 0b1000), running 4) ∧ (running 4).regs.sel = 4 ∧
    (0b0001#4).getLsbD 0 = true ∧ (0b0010#4).getLsbD 1 = true ∧ (0b0100#4).getLsbD 2 = true ∧
    (0b1000#4).getLsbD 3 = true ∧
    State.reset.regs.sel = 0 ∧ (0b0111#4).getLsbD ((running 4).regs.sel.toNat - 1) = false := by decide

/-- For Tick1BlinksAll to Tick4RotatesDown: each pattern selected with its bit, and a state and a vector of the other
clause. -/
theorem witness_Tick1BlinksAll : ((running 1).regs.sel = 1 ∧ (0b0001#4).getLsbD 0 = true) ∧ (running 2).regs.sel ≠ 1 ∧
    (0b1110#4).getLsbD 0 = false := by decide

theorem witness_Tick2AlternatesOddEven : ((running 2).regs.sel = 2 ∧ (0b0010#4).getLsbD 1 = true) ∧ (running 3).regs.sel ≠ 2 ∧
    (0b1101#4).getLsbD 1 = false := by decide

theorem witness_Tick3RotatesUp : ((running 3).regs.sel = 3 ∧ (0b0100#4).getLsbD 2 = true) ∧ (running 4).regs.sel ≠ 3 ∧
    (0b1011#4).getLsbD 2 = false := by decide

theorem witness_Tick4RotatesDown : ((running 4).regs.sel = 4 ∧ (0b1000#4).getLsbD 3 = true) ∧ State.reset.regs.sel ≠ 4 ∧
    (0b0111#4).getLsbD 3 = false := by decide

/-- A state in which a row of the Mealy table is about to be taken. -/
def mealyState (row : MealyRow) : State :=
  withRegs { sel := BitVec.ofNat 3 row.pattern, f1 := row.before == 1, f2 := row.before == 1, c3 := row.before,
             c4 := row.before, out := 0 }

theorem witness_RendersFollowTheMealyTable : ∀ row ∈ mealyTable,
    (mealyState row).par.Ok ∧ (mealyState row).regs.sel.toNat = row.pattern ∧
    (0b1111#4).getLsbD (row.pattern - 1) = true ∧ (mealyState row).regs.patternState row.pattern = row.before := by decide

theorem witness_OnlyTheSelectedTickBitCounts : (running 2).regs.sel ≠ 0 ∧
    (0b0010#4).getLsbD ((running 2).regs.sel.toNat - 1) = (0b1111#4).getLsbD ((running 2).regs.sel.toNat - 1) := by decide

theorem witness_StaleTicksHaveNoEffect :
    (waiting (running 2) (.tick 0b0101)).pending = [0b0101#4].map Event.tick ∧
    (∀ v ∈ [0b0101#4], (running 2).regs.sel ≠ 0 → v.getLsbD ((running 2).regs.sel.toNat - 1) = false) := by decide

theorem witness_RenderOverwritesTheHostsPicture : (running 4).regs.sel ≠ 0 ∧ (running 4).regs.sel.toNat ≤ 4 ∧
    (0b1000#4).getLsbD ((running 4).regs.sel.toNat - 1) = true := by decide

theorem witness_RotationsAdvanceOnePlaceATick :
    ∃ s u : State, s.par.Ok ∧ s.pending = List.replicate 5 (.tick 0b0100) ∧ s.regs.sel = 3 ∧ (0b0100#4).getLsbD 2 = true ∧
      u.par.Ok ∧ u.pending = List.replicate 5 (.tick 0b1000) ∧ u.regs.sel = 4 ∧ (0b1000#4).getLsbD 3 = true :=
  ⟨{ running 3 with pending := List.replicate 5 (.tick 0b0100) }, { running 4 with pending := List.replicate 5 (.tick 0b1000) },
    by decide⟩

theorem witness_ToggleParityForBothSeeds :
    ∃ s u : State, s.pending = List.replicate 2 (.tick 0b0001) ∧ s.regs = { resetRegs s.par with sel := 1 } ∧
      (0b0001#4).getLsbD 0 = true ∧ u.pending = List.replicate 2 (.tick 0b0010) ∧
      u.regs = { resetRegs u.par with sel := 2 } ∧ (0b0010#4).getLsbD 1 = true :=
  ⟨{ running 1 with pending := List.replicate 2 (.tick 0b0001) }, { running 2 with pending := List.replicate 2 (.tick 0b0010) },
    by decide⟩

/-- A step that is no reset and changes each pattern's own state. -/
theorem witness_OnlyOwnRenderOrResetChangesPatternState :
    (waiting (running 1) (.tick 1)).nextEvent.1 ≠ some .reset ∧
    (match step (waiting (running 1) (.tick 1)) with | .next t => t.regs.f1 | _ => true) ≠ (running 1).regs.f1 ∧
    (match step (waiting (running 2) (.tick 2)) with | .next t => t.regs.f2 | _ => true) ≠ (running 2).regs.f2 ∧
    (match step (waiting (running 3) (.tick 4)) with | .next t => t.regs.c3 | _ => 0) ≠ (running 3).regs.c3 ∧
    (match step (waiting (running 4) (.tick 8)) with | .next t => t.regs.c4 | _ => 0) ≠ (running 4).regs.c4 := by decide

theorem witness_PatternStateSurvivesCommands : (waiting State.reset (.cmd 0x13)).pending = [0x13#8].map Event.cmd := by
  decide

theorem witness_StepWritesOutAsTheRulesSay : State.reset.nextEvent.1 = none ∧
    (waiting State.reset .reset).nextEvent.1 = some .reset ∧ (waiting State.reset (.cmd 0x7A)).nextEvent.1 = some (.cmd 0x7A) ∧
    Event.cmd 0x7A ≠ .reset := by decide

theorem witness_OutHoldsTheLastWrite : State.reset.regs.out = State.reset.par.outInit := by decide

theorem witness_LinesFollowOut : State.reset.par.linePol = .activeHigh ∧
    (State.reset.withPolarity .activeLow).par.linePol = .activeLow ∧ 1 ≤ 1 ∧ 4 ≤ 4 := by decide

/-- A state at the start of a clock cycle with these inputs. -/
def atCycle (s : State) (c : PortInputs) : State := { s with cycles := [c] }

/-- The premises that the clauses of CycleOrderIsResetOrTickThenCommand share, met at the start of any one cycle. -/
theorem witness_at_cycle (c : PortInputs) :
    (atCycle State.reset c).pending = [] ∧ (atCycle State.reset c).cycles = [c] := ⟨rfl, rfl⟩

/-- The inputs of a cycle for each clause: reset with all else raised, tick and command, tick, command, none. -/
theorem witness_CycleOrderIsResetOrTickThenCommand :
    (∃ c : PortInputs, c.rst = true ∧ c.tick ≠ 0 ∧ c.cmdValid = true) ∧
    (∃ c : PortInputs, c.rst = false ∧ c.tick ≠ 0 ∧ c.cmdValid = true) ∧
    (∃ c : PortInputs, c.rst = false ∧ c.tick ≠ 0 ∧ c.cmdValid = false) ∧
    (∃ c : PortInputs, c.rst = false ∧ c.tick = 0 ∧ c.cmdValid = true) ∧
    (∃ c : PortInputs, c.rst = false ∧ c.tick = 0 ∧ c.cmdValid = false) :=
  ⟨⟨⟨true, true, 0x30, 0b1111⟩, by decide⟩, ⟨⟨false, true, 0x13, 0b0001⟩, by decide⟩,
   ⟨⟨false, false, 0x00, 0b1000⟩, by decide⟩, ⟨⟨false, true, 0x40, 0b0000⟩, by decide⟩,
   ⟨⟨false, false, 0x00, 0b0000⟩, by decide⟩⟩

theorem witness_TickOfTheStartedPatternIsDropped :
    (atCycle (running 1) ⟨false, true, 0x13, 0b0100⟩).pending = [] ∧ IsSelect 3 (.cmd 0x13) ∧
    (running 1).regs.sel.toNat ≠ (3 : Nibble).toNat ∧ (0b0100 : Nibble) = 0b0001#4 <<< ((3 : Nibble).toNat - 1) := by decide

/-- Cycles with tick and command, a command alone, a tick alone, nothing, and reset: all start with nothing pending, the
first two meet the clause of the code, and the step counts are those of their events, one where there is none. -/
theorem witness_ResponseShowsAfterTheCommandsCycle :
    (∀ c ∈ [PortInputs.mk false true 0x15 0b0001, .mk false true 0x15 0b0000, .mk false false 0x15 0b0001,
        .mk false false 0x15 0b0000, .mk true true 0x15 0b0001],
      (atCycle (running 1) c).pending = [] ∧ (atCycle (running 1) c).cycles = [c]) ∧
    (∀ c ∈ [PortInputs.mk false true 0x15 0b0001, .mk false true 0x15 0b0000], c.cmdValid = true ∧ c.rst = false) ∧
    [PortInputs.mk false true 0x15 0b0001, .mk false true 0x15 0b0000, .mk false false 0x15 0b0001,
      .mk false false 0x15 0b0000, .mk true true 0x15 0b0001].map PortInputs.stepCount = [2, 1, 1, 1, 1] := by decide

theorem witness_IdleStopsAndClears :
    ∃ (s : State) (es : List Event), assembleLine "IDLE" = some es ∧ s.pending = es :=
  ⟨{ running 3 with pending := [.cmd 0x20, .cmd 0x40] }, [.cmd 0x20, .cmd 0x40], by decide⟩

theorem witness_ResetSetsEveryElement : (waiting (running 3) .reset).nextEvent = (some .reset, running 3) := by decide

theorem witness_ResetStateIsWhatResetLeaves :
    (running 3).par = { cntw := 2, seed1 := true, seed2 := true, outInit := 0b0000, linePol := .activeHigh } := by decide

/-- CNTW 2 and 3, with counters 3 and 7. -/
theorem witness_CounterWidthIsNotObservable :
    SameButCounterWidth (withRegs { l21 with c3 := 3 })
      { withRegs { l21 with c3 := 7 } with par := { Params.defaults with cntw := 3 } } := by decide

end Sys2Proof.Tests
end

/-! ## Proofs: the scope of a step (00_scope.md)

Where a step's event comes from, what running it leaves alone, and the state that reset leaves. -/

namespace Sys2Proof.Machine

variable {s t : State}

/-! ### The step and the running of an event -/

/-- A step with a next event is the effect of that event. -/
theorem step_of_event {e : Event} (h : s.nextEvent = (some e, t)) : step s = runEvent e t := by
  simp only [step, takeStep, h]

/-- A step without a next event only ends the outputs of the step before. -/
theorem step_of_noEvent (h : s.nextEvent = (none, t)) : step s = .next t.beginStep := by
  simp only [step, takeStep, h]

/-- An event that decodes under the state's `SEL` has the effect of its instruction. -/
theorem runEvent_of_decode {e : Event} {i : Instr} (h : decode s.regs.sel e = some i) : runEvent e s = exec i s := by
  cases e with
  | reset => cases h
  | cmd w => exact congrArg (exec · s) (Option.some.inj h)
  | tick v =>
    have hv : decodeTick s.regs.sel v = some i := h
    simp only [runEvent, hv]

/-- No event writes the parameters or the inputs still to come; reset does not either (log 14). -/
theorem runEvent_keeps {e : Event} (h : runEvent e s = .next t) :
    t.par = s.par ∧ t.pending = s.pending ∧ t.cycles = s.cycles := by
  cases e with
  | reset =>
    obtain rfl := Host.Outcome.next.inj h
    simp
  | cmd w => exact exec_keeps h
  | tick v =>
    simp only [runEvent] at h
    split at h
    · exact exec_keeps h
    · obtain rfl := Host.Outcome.next.inj h
      simp

/-- Under the default parameters the reset event leaves `State.reset` with the inputs that wait. -/
theorem resetEvent_of_defaults (h : s.par = Params.defaults) :
    s.resetEvent = { State.reset with pending := s.pending, cycles := s.cycles } := by
  simp only [State.resetEvent, h]
  rfl

/-! ### The obligations -/

/-- Settles O9: taking the next event writes no parameter, and running it writes neither a parameter nor the inputs
that then wait. -/
theorem stepLeavesParametersAndLaterInputs : Obligations.StepLeavesParametersAndLaterInputs := by
  intro s t h
  obtain ⟨hpar, -, -⟩ := nextEvent_keeps s
  obtain ⟨u, hu, rfl⟩ | ⟨e, u, hu, hrun⟩ := step_cases h
  · rw [hu] at hpar ⊢
    exact ⟨hpar, rfl, rfl⟩
  · obtain ⟨hp, hpending, hcycles⟩ := runEvent_keeps hrun
    rw [hu] at hpar ⊢
    exact ⟨hp.trans hpar, hpending, hcycles⟩

/-- Settles O50: the elements by `resetEvent_of_defaults`, and the outputs of `State.reset` by evaluation. -/
theorem resetStateIsWhatResetLeaves : Obligations.ResetStateIsWhatResetLeaves := by
  intro s h
  exact ⟨congrArg Host.Outcome.next (resetEvent_of_defaults h), rfl, rfl, by decide, by decide⟩

/-- Settles O5: the step runs its event, and the event runs the instruction it decodes to. -/
theorem stepRunsTheDecodedInstruction : Obligations.StepRunsTheDecodedInstruction := by
  intro s t e i hnext hdecode
  calc step s = runEvent e t := step_of_event hnext
    _ = exec i t := runEvent_of_decode hdecode

/-- Settles O8: only the last outputs end, and looking for an event leaves the elements. -/
theorem noEventNoChange : Obligations.NoEventNoChange := by
  intro s t h
  obtain ⟨-, hregs, -⟩ := nextEvent_keeps s
  rw [h] at hregs
  exact ⟨step_of_noEvent h, hregs⟩

end Sys2Proof.Machine

/-! ## Proofs: the state and its outputs (10_state.md)

What each event leaves in `SEL`, the pattern state, `OUT` and the outputs is said once, at the running of an event. The
obligations lift these facts to a step by `step_event_cases`, and to a sequence of steps by induction. -/

namespace Sys2Proof.Machine

variable {s t : State}

/-! ### Taking the next event -/

/-- A pending event comes before the cycles still to come. -/
theorem nextEvent_of_pending {e : Event} {es : List Event} (h : s.pending = e :: es) :
    s.nextEvent = (some e, { s with pending := es }) := by
  simp only [State.nextEvent, h]

/-- With nothing pending the next cycle's first event is taken, and the others wait. -/
theorem nextEvent_of_cycle {c : PortInputs} {cs : List PortInputs} {e : Event} {es : List Event}
    (hp : s.pending = []) (hc : s.cycles = c :: cs) (he : c.events = e :: es) :
    s.nextEvent = (some e, { s with pending := es, cycles := cs }) := by
  simp only [State.nextEvent, hp, hc, he]

/-- A cycle without events passes. -/
theorem nextEvent_of_emptyCycle {c : PortInputs} {cs : List PortInputs}
    (hp : s.pending = []) (hc : s.cycles = c :: cs) (he : c.events = []) :
    s.nextEvent = (none, { s with cycles := cs }) := by
  simp only [State.nextEvent, hp, hc, he]

theorem nextEvent_of_noInput (hp : s.pending = []) (hc : s.cycles = []) : s.nextEvent = (none, s) := by
  simp only [State.nextEvent, hp, hc]

/-- Taking the next event commutes with every change of a state that leaves its inputs alone. -/
theorem nextEvent_commutes (f : State → State)
    (hf : ∀ u ps cs, f { u with pending := ps, cycles := cs } = { f u with pending := ps, cycles := cs }) (s : State) :
    (f s).nextEvent = (s.nextEvent.1, f s.nextEvent.2) := by
  have hs : f s = { f s with pending := s.pending, cycles := s.cycles } := hf s s.pending s.cycles
  have hp : (f s).pending = s.pending := (congrArg State.pending hs :)
  have hc : (f s).cycles = s.cycles := (congrArg State.cycles hs :)
  cases hps : s.pending with
  | cons e es =>
    rw [nextEvent_of_pending hps, nextEvent_of_pending (hp.trans hps), ← hc]
    exact congrArg (Prod.mk _) (hf s es (f s).cycles).symm
  | nil =>
    cases hcs : s.cycles with
    | nil => rw [nextEvent_of_noInput hps hcs, nextEvent_of_noInput (hp.trans hps) (hc.trans hcs)]
    | cons c cs =>
      cases he : c.events with
      | nil =>
        rw [nextEvent_of_emptyCycle hps hcs he, nextEvent_of_emptyCycle (hp.trans hps) (hc.trans hcs) he]
        rw [hp, hf s s.pending cs]
      | cons e es =>
        rw [nextEvent_of_cycle hps hcs he, nextEvent_of_cycle (hp.trans hps) (hc.trans hcs) he]
        exact congrArg (Prod.mk _) (hf s es cs).symm

/-- A step is the running of its next event in a state with the same elements and parameters, or changes no element and
no parameter and ends the last outputs. -/
theorem step_event_cases (h : step s = .next t) :
    (s.nextEvent.1 = none ∧ t.regs = s.regs ∧ t.par = s.par ∧ t.outputs = { tmrStart := 0b0000, resp := none }) ∨
    (∃ e u, s.nextEvent.1 = some e ∧ u.regs = s.regs ∧ u.par = s.par ∧ runEvent e u = .next t) := by
  obtain ⟨hpar, hregs, -⟩ := nextEvent_keeps s
  obtain ⟨u, hu, rfl⟩ | ⟨e, u, hu, hrun⟩ := step_cases h
  · rw [hu] at hpar hregs
    exact .inl ⟨congrArg Prod.fst hu, hregs, hpar, rfl⟩
  · rw [hu] at hpar hregs
    exact .inr ⟨e, u, congrArg Prod.fst hu, hregs, hpar, hrun⟩

/-- Every step goes on. -/
theorem step_next (s : State) : ∃ t, step s = .next t := by
  rcases hn : s.nextEvent with ⟨_ | e, u⟩
  · exact ⟨_, step_of_noEvent hn⟩
  · rw [step_of_event hn]
    exact runEvent_next e u

/-! ### Responses -/

/-- The response that the check of an operand decides: its code, or OK. -/
def operandResp {α : Type} : Except Resp α → Resp
  | .error c => c
  | .ok _ => .ok

/-- The response to an instruction, none to a tick. -/
def instrResp : Instr → Option Resp
  | .select n => some (operandResp (formN n))
  | .stopAll z | .allOn z | .allOff z | .setOdd z | .setEven z => some (operandResp (formZ z))
  | .wrmask m => some (operandResp (formM m))
  | .setbit a | .clrbit a => some (operandResp (formI a))
  | .reserved0 _ | .reservedAB _ | .reservedCF _ => some (operandResp formReserved)
  | .tick1 _ | .tick2 _ | .tick3 _ | .tick4 _ => none

/-- The response to an event: that of a command word by the tables, none to a tick or a reset (R35). -/
def eventResp : Event → Option Resp
  | .cmd w => some (expectedResponse w)
  | .tick _ | .reset => none

theorem onOperand_resp {α : Type} {o : Except Resp α} {act : α → State → State} (h : onOperand o act s = .next t) :
    t.outputs.resp = some (operandResp o) := by
  obtain ⟨c, rfl, rfl⟩ | ⟨a, rfl, rfl⟩ := onOperand_cases h
  · rfl
  · rfl

/-- The operand checks answer a command word as the tables of R64 and R141 say. -/
theorem instrResp_decodeCmd : ∀ w : CmdWord, instrResp (decodeCmd w) = some (expectedResponse w) := by decide

/-- A command answers what its operand check decides. -/
theorem exec_command_resp {i : Instr} (hi : i.format = .cmd) (h : exec i s = .next t) :
    t.outputs.resp = instrResp i := by
  cases i with
  | select n => rw [exec_select] at h; exact onOperand_resp h
  | stopAll z => rw [exec_stopAll] at h; exact onOperand_resp h
  | allOn z => rw [exec_allOn] at h; exact onOperand_resp h
  | allOff z => rw [exec_allOff] at h; exact onOperand_resp h
  | setOdd z => rw [exec_setOdd] at h; exact onOperand_resp h
  | setEven z => rw [exec_setEven] at h; exact onOperand_resp h
  | wrmask m => rw [exec_wrmask] at h; exact onOperand_resp h
  | setbit a => rw [exec_setbit] at h; exact onOperand_resp h
  | clrbit a => rw [exec_clrbit] at h; exact onOperand_resp h
  | reserved0 r => rw [exec_reserved0] at h; exact onOperand_resp h
  | reservedAB r => rw [exec_reservedAB] at h; exact onOperand_resp h
  | reservedCF r => rw [exec_reservedCF] at h; exact onOperand_resp h
  | tick1 v => cases hi
  | tick2 v => cases hi
  | tick3 v => cases hi
  | tick4 v => cases hi

/-! ### What an event leaves unchanged -/

/-- `F1`, `F2`, `C3` and `C4` of one state are those of another. -/
def SamePatternState (s t : State) : Prop :=
  t.regs.f1 = s.regs.f1 ∧ t.regs.f2 = s.regs.f2 ∧ t.regs.c3 = s.regs.c3 ∧ t.regs.c4 = s.regs.c4

theorem SamePatternState.trans {u : State} (h : SamePatternState s t) (h' : SamePatternState t u) :
    SamePatternState s u := by
  obtain ⟨hf1, hf2, hc3, hc4⟩ := h
  obtain ⟨hf1', hf2', hc3', hc4'⟩ := h'
  exact ⟨hf1'.trans hf1, hf2'.trans hf2, hc3'.trans hc3, hc4'.trans hc4⟩

/-- No command word writes a flag or a counter (R29). -/
theorem command_samePatternState {w : CmdWord} (h : exec (decodeCmd w) s = .next t) : SamePatternState s t := by
  obtain ⟨n, -, rfl⟩ | ⟨-, ⟨-, rfl⟩ | ⟨-, c, rfl⟩⟩ := command_cases h
  · exact ⟨rfl, rfl, rfl, rfl⟩
  · exact ⟨rfl, rfl, rfl, rfl⟩
  · exact ⟨rfl, rfl, rfl, rfl⟩

/-- No tick writes `SEL`, pulses a source or is answered, accepted or not (R120, R128). -/
theorem tick_frame {v : Nibble} (h : runEvent (.tick v) s = .next t) :
    t.regs.sel = s.regs.sel ∧ t.outputs = { tmrStart := 0b0000, resp := none } := by
  obtain ⟨⟨⟩, -⟩ | ⟨w, ⟨⟩, -⟩ | ⟨-, -, -, rfl⟩ | ⟨-, -, -, -, rfl⟩ | ⟨-, -, -, -, rfl⟩ | ⟨-, -, -, -, rfl⟩ |
    ⟨-, -, -, -, rfl⟩ := runEvent_cases h
  · exact ⟨rfl, rfl⟩
  · rw [render1_eq]; exact ⟨rfl, rfl⟩
  · rw [render2_eq]; exact ⟨rfl, rfl⟩
  · rw [render3_eq]; exact ⟨rfl, rfl⟩
  · rw [render4_eq]; exact ⟨rfl, rfl⟩

/-- The response in the step of an event. -/
theorem runEvent_resp {e : Event} (h : runEvent e s = .next t) : t.outputs.resp = eventResp e := by
  cases e with
  | reset =>
    obtain rfl := Host.Outcome.next.inj h
    rfl
  | cmd w => exact (exec_command_resp (decodeCmd_format w) h).trans (instrResp_decodeCmd w)
  | tick v =>
    obtain ⟨-, hout⟩ := tick_frame h
    rw [hout]
    rfl

/-! ### `SEL` and the start pulse -/

/-- What an event leaves in `SEL` (R22). -/
theorem runEvent_sel {e : Event} (h : runEvent e s = .next t) :
    t.regs.sel = s.regs.sel ∨ (∃ n, IsSelect n e ∧ t.regs.sel = n.setWidth 3) ∨
    (e = .cmd 0x20 ∧ t.regs.sel = 0) ∨ (e = .reset ∧ t.regs.sel = 0) := by
  cases e with
  | reset =>
    obtain rfl := Host.Outcome.next.inj h
    exact .inr (.inr (.inr ⟨rfl, rfl⟩))
  | cmd w =>
    obtain ⟨n, hn, rfl⟩ | ⟨-, ⟨rfl, rfl⟩ | ⟨-, c, rfl⟩⟩ := command_cases h
    · exact .inr (.inl ⟨n, hn, rfl⟩)
    · exact .inr (.inr (.inl ⟨rfl, rfl⟩))
    · exact .inl rfl
  | tick v => exact .inl (tick_frame h).1

/-- An accepted SELECT n pulses the start of source n. -/
theorem runEvent_tmrStart_of_isSelect {e : Event} {n : Nibble} (hn : IsSelect n e) (h : runEvent e s = .next t) :
    t.outputs.tmrStart = 0b0001#4 <<< (n.toNat - 1) := by
  obtain ⟨w, rfl⟩ : ∃ w, e = .cmd w := by
    obtain ⟨-, -, he⟩ := hn
    exact ⟨_, he⟩
  obtain ⟨m, hm, rfl⟩ | ⟨hno, -⟩ := command_cases h
  · rw [isSelect_unique hn hm]
  · exact absurd hn (hno n)

/-- Every other event pulses no source. -/
theorem runEvent_tmrStart_of_not_isSelect {e : Event} (hno : ∀ n, ¬ IsSelect n e) (h : runEvent e s = .next t) :
    t.outputs.tmrStart = 0b0000 := by
  cases e with
  | reset =>
    obtain rfl := Host.Outcome.next.inj h
    rfl
  | cmd w =>
    obtain ⟨m, hm, -⟩ | ⟨-, ⟨-, rfl⟩ | ⟨-, c, rfl⟩⟩ := command_cases h
    · exact absurd hm (hno m)
    · rfl
    · rfl
  | tick v => rw [(tick_frame h).2]

/-! ### The output register -/

/-- A command word leaves its mask in `OUT`, or `OUT` as it was. -/
theorem command_out {w : CmdWord} (h : exec (decodeCmd w) s = .next t) :
    t.regs.out = (maskOfCmd s.regs.out w).getD s.regs.out := by
  obtain ⟨n, ⟨-, -, hw⟩, rfl⟩ | ⟨-, ⟨rfl, rfl⟩ | ⟨-, c, rfl⟩⟩ := command_cases h
  · rw [Event.cmd.inj hw, ← select_word, mask_select]
    rfl
  · exact congrArg (Option.getD · s.regs.out) (mask_stopAll s.regs.out 0).symm
  · rfl

/-- A tick vector without the bit of the selected pattern, or with no pattern selected, has no mask. -/
theorem maskOfTick_dropped {r : Regs} {v : Nibble} (h : r.sel = 0 ∨ v.getLsbD (r.sel.toNat - 1) = false) :
    maskOfTick r v = none := by
  obtain hsel | hbit := h
  · simp [maskOfTick, hsel]
  · unfold maskOfTick
    split
    iterate 4 next hk => rw [hk] at hbit; exact if_neg (Bool.eq_false_iff.1 hbit)
    next => rfl

/-- A tick vector leaves the mask of the selected pattern in `OUT` if it is accepted, and `OUT` as it was if not. -/
theorem tick_out {v : Nibble} (h : runEvent (.tick v) s = .next t) :
    t.regs.out = (maskOfTick s.regs v).getD s.regs.out := by
  obtain ⟨⟨⟩, -⟩ | ⟨w, ⟨⟩, -⟩ | ⟨_, ⟨⟩, hdrop, rfl⟩ | ⟨_, ⟨⟩, hk, hv, rfl⟩ | ⟨_, ⟨⟩, hk, hv, rfl⟩ |
    ⟨_, ⟨⟩, hk, hv, rfl⟩ | ⟨_, ⟨⟩, hk, hv, rfl⟩ := runEvent_cases h
  · rw [maskOfTick_dropped hdrop]
    rfl
  · cases hf : s.regs.f1 <;> simp [render1_eq, maskOfTick, hk, hv, hf]
  · cases hf : s.regs.f2 <;> simp [render2_eq, maskOfTick, hk, hv, hf]
  · simp [render3_eq, maskOfTick, hk, hv]
  · simp [render4_eq, maskOfTick, hk, hv]

/-- What an event other than reset leaves in `OUT` (R30). -/
theorem runEvent_out {e : Event} (he : e ≠ .reset) (h : runEvent e s = .next t) :
    t.regs.out = (maskWritten s.regs e).getD s.regs.out := by
  cases e with
  | reset => exact absurd rfl he
  | cmd w => exact command_out h
  | tick v => exact tick_out h

/-! ### The invariant -/

/-- The invariant speaks of parameters and elements only. -/
theorem inv_congr (hregs : t.regs = s.regs) (hpar : t.par = s.par) : t.Inv ↔ s.Inv := by
  simp only [State.Inv, hregs, hpar]

theorem resetEvent_inv (h : s.par.Ok) : s.resetEvent.Inv :=
  ⟨Nat.zero_le 4, h, Nat.two_pow_pos _, Nat.two_pow_pos _⟩

/-- Every event keeps the invariant: SELECT writes a legal pattern number, and a counter counts modulo `2^CNTW`. -/
theorem runEvent_inv {e : Event} (hs : s.Inv) (h : runEvent e s = .next t) : t.Inv := by
  obtain ⟨hsel, hok, hc3, hc4⟩ := hs
  obtain ⟨-, rfl⟩ | ⟨w, -, hw⟩ | ⟨-, -, -, rfl⟩ | ⟨-, -, -, -, rfl⟩ | ⟨-, -, -, -, rfl⟩ | ⟨-, -, -, -, rfl⟩ |
    ⟨-, -, -, -, rfl⟩ := runEvent_cases h
  · exact resetEvent_inv hok
  · obtain ⟨n, ⟨-, hn, -⟩, rfl⟩ | ⟨-, ⟨-, rfl⟩ | ⟨-, c, rfl⟩⟩ := command_cases hw
    · exact ⟨(BitVec.toNat_setWidth 3 n).trans_le ((Nat.mod_le _ _).trans hn), hok, hc3, hc4⟩
    · exact ⟨Nat.zero_le 4, hok, hc3, hc4⟩
    · exact ⟨hsel, hok, hc3, hc4⟩
  · exact ⟨hsel, hok, hc3, hc4⟩
  · rw [render1_eq]; exact ⟨hsel, hok, hc3, hc4⟩
  · rw [render2_eq]; exact ⟨hsel, hok, hc3, hc4⟩
  · rw [render3_eq]; exact ⟨hsel, hok, countUp_lt _ _, hc4⟩
  · rw [render4_eq]; exact ⟨hsel, hok, hc3, countUp_lt _ _⟩

/-! ### Several steps -/

/-- Any number of pending command words completes and writes no flag or counter. -/
theorem steps_commands_samePatternState (ws : List CmdWord) :
    ∀ s : State, s.pending = ws.map Event.cmd → ∃ t, steps ws.length s = .next t ∧ SamePatternState s t := by
  induction ws with
  | nil => exact fun s _ => ⟨s, rfl, rfl, rfl, rfl, rfl⟩
  | cons w ws ih =>
    intro s hs
    obtain ⟨u, hu⟩ := runEvent_next (.cmd w) { s with pending := ws.map Event.cmd }
    obtain ⟨-, hpending, -⟩ := runEvent_keeps hu
    obtain ⟨t, ht, hut⟩ := ih u hpending
    have hsu := command_samePatternState (w := w) hu
    exact ⟨t, (steps_succ ws.length ((step_pending hs).trans hu)).trans ht, hsu.trans hut⟩

/-- The steps of a cycle's pending events complete, and the response that is left is that of the last event. -/
theorem steps_pending_resp (es : List Event) :
    ∀ (e : Event) (s : State), s.pending = e :: es →
      ∃ t, steps (e :: es).length s = .next t ∧ t.pending = [] ∧ t.cycles = s.cycles ∧
        t.outputs.resp = eventResp ((e :: es).getLast (List.cons_ne_nil e es)) := by
  induction es with
  | nil =>
    intro e s hs
    obtain ⟨t, ht⟩ := runEvent_next e { s with pending := [] }
    obtain ⟨-, hpending, hcycles⟩ := runEvent_keeps ht
    exact ⟨t, steps_succ 0 ((step_pending hs).trans ht), hpending, hcycles, runEvent_resp ht⟩
  | cons e' es ih =>
    intro e s hs
    obtain ⟨u, hu⟩ := runEvent_next e { s with pending := e' :: es }
    obtain ⟨-, hpending, hcycles⟩ := runEvent_keeps hu
    obtain ⟨t, ht, hp, hc, hresp⟩ := ih e' u hpending
    refine ⟨t, (steps_succ _ ((step_pending hs).trans hu)).trans ht, hp, hc.trans hcycles, ?_⟩
    rw [hresp, List.getLast_cons (List.cons_ne_nil e' es)]

/-- A cycle with events runs as if they were pending. -/
theorem steps_cycle {c : PortInputs} {cs : List PortInputs} (n : Nat) (hp : s.pending = []) (hc : s.cycles = c :: cs)
    (he : c.events ≠ []) : steps (n + 1) s = steps (n + 1) { s with pending := c.events, cycles := cs } := by
  obtain ⟨e, es, hes⟩ := List.exists_cons_of_ne_nil he
  have hstep : step s = step { s with pending := c.events, cycles := cs } :=
    (step_of_event (nextEvent_of_cycle hp hc hes)).trans
      (step_pending (s := { s with pending := c.events, cycles := cs }) hes).symm
  simp only [steps, hstep]

/-- A clock cycle completes and leaves the response of its last event, none if it has no event. -/
theorem steps_cycle_resp {c : PortInputs} {cs : List PortInputs} (hp : s.pending = []) (hc : s.cycles = c :: cs) :
    ∃ t, steps c.stepCount s = .next t ∧ t.pending = [] ∧ t.cycles = cs ∧
      t.outputs.resp = c.events.getLast?.bind eventResp := by
  cases hes : c.events with
  | nil =>
    have hcount : c.stepCount = 1 := by rw [PortInputs.stepCount, hes]; rfl
    have hstep := step_of_noEvent (nextEvent_of_emptyCycle hp hc hes)
    rw [hcount]
    exact ⟨_, steps_succ 0 hstep, hp, rfl, rfl⟩
  | cons e es =>
    have hcount : c.stepCount = (e :: es).length := by rw [PortInputs.stepCount, hes]; simp
    obtain ⟨t, ht, htp, htc, hresp⟩ := steps_pending_resp es e { s with pending := c.events, cycles := cs } hes
    rw [hcount]
    refine ⟨t, (steps_cycle es.length hp hc (by simp [hes])).trans ht, htp, htc, ?_⟩
    rw [hresp, List.getLast?_eq_getLast_of_ne_nil (List.cons_ne_nil e es)]
    rfl

/-- The response of a cycle's last event is that of its command, unless reset drops it (R146, R161). -/
theorem cycle_resp (c : PortInputs) :
    c.events.getLast?.bind eventResp = if c.cmdValid && !c.rst then some (expectedResponse c.cmdData) else none := by
  cases hrst : c.rst with
  | true => simp [PortInputs.events, hrst, eventResp]
  | false =>
    cases hcmd : c.cmdValid with
    | true => simp [PortInputs.events, hrst, hcmd, eventResp]
    | false => by_cases htick : c.tick = 0#4 <;> simp [PortInputs.events, hrst, hcmd, htick, eventResp]

/-! ### The last mask written -/

theorem lastMask_of_noEvent {n : Nat} {last : Option Nibble} (h : step s = .next t) (he : s.nextEvent.1 = none) :
    lastMask (n + 1) s last = lastMask n t last := by
  simp only [lastMask, h, he]

theorem lastMask_of_reset {n : Nat} {last : Option Nibble} (h : step s = .next t) (he : s.nextEvent.1 = some .reset) :
    lastMask (n + 1) s last = lastMask n t none := by
  simp only [lastMask, h, he]

theorem lastMask_of_event {n : Nat} {last : Option Nibble} {e : Event} (h : step s = .next t)
    (he : s.nextEvent.1 = some e) (hne : e ≠ .reset) :
    lastMask (n + 1) s last = lastMask n t ((maskWritten s.regs e).or last) := by
  cases e with
  | reset => exact absurd rfl hne
  | cmd w => simp only [lastMask, h, he]
  | tick v => simp only [lastMask, h, he]

/-! ### Steps without outputs and with another polarity -/

/-- No instruction reads the outputs of the step before: a command and a tick both begin by ending them (R34, R35). -/
theorem exec_beginStep (i : Instr) (s : State) : exec i s.beginStep = exec i s := by
  cases i <;> rfl

theorem runEvent_beginStep (e : Event) (s : State) : runEvent e s.beginStep = runEvent e s := by
  cases e with
  | reset => rfl
  | cmd w => exact exec_beginStep _ s
  | tick v =>
    simp only [runEvent, State.beginStep_regs]
    split
    · exact exec_beginStep _ s
    · rfl

/-- A step starts with the outputs of the step before ended. -/
theorem step_beginStep (s : State) : step s.beginStep = step s := by
  have hnext := nextEvent_commutes State.beginStep (fun _ _ _ => rfl) s
  rcases hn : s.nextEvent with ⟨_ | e, u⟩
  · rw [hn] at hnext
    rw [step_of_noEvent hn, step_of_noEvent hnext]
    rfl
  · rw [hn] at hnext
    rw [step_of_event hn, step_of_event hnext, runEvent_beginStep]

section Polarity

variable {p : Polarity}

theorem onOperand_withPolarity {α : Type} {o : Except Resp α} {act : α → State → State}
    (h : onOperand o act s = .next t)
    (hact : ∀ a u, act a (u.withPolarity p) = (act a u).withPolarity p) :
    onOperand o act (s.withPolarity p) = .next (t.withPolarity p) := by
  obtain ⟨c, rfl, rfl⟩ | ⟨a, rfl, rfl⟩ := onOperand_cases h
  · rfl
  · rw [onOperand_ok]
    exact congrArg (fun u : State => Host.Outcome.next (u.respond .ok)) (hact a s.beginStep)

theorem onTick_withPolarity {k : Nat} {v : Nibble} {render : State → State} (h : onTick k v render s = .next t)
    (hr : ∀ u, render (u.withPolarity p) = (render u).withPolarity p) :
    onTick k v render (s.withPolarity p) = .next (t.withPolarity p) := by
  obtain ⟨hk, rfl⟩ | ⟨hk, rfl⟩ := onTick_cases h
  · exact (onTick_accepted (s := s.withPolarity p) hk).trans (congrArg _ (hr s.beginStep))
  · exact onTick_dropped (s := s.withPolarity p) hk

/-- No instruction reads the polarity (R32, D14). -/
theorem exec_withPolarity {i : Instr} (h : exec i s = .next t) :
    exec i (s.withPolarity p) = .next (t.withPolarity p) := by
  cases i with
  | select n => rw [exec_select] at h ⊢; exact onOperand_withPolarity h fun _ _ => rfl
  | stopAll z => rw [exec_stopAll] at h ⊢; exact onOperand_withPolarity h fun _ _ => rfl
  | allOn z => rw [exec_allOn] at h ⊢; exact onOperand_withPolarity h fun _ _ => rfl
  | allOff z => rw [exec_allOff] at h ⊢; exact onOperand_withPolarity h fun _ _ => rfl
  | setOdd z => rw [exec_setOdd] at h ⊢; exact onOperand_withPolarity h fun _ _ => rfl
  | setEven z => rw [exec_setEven] at h ⊢; exact onOperand_withPolarity h fun _ _ => rfl
  | wrmask m => rw [exec_wrmask] at h ⊢; exact onOperand_withPolarity h fun _ _ => rfl
  | setbit a => rw [exec_setbit] at h ⊢; exact onOperand_withPolarity h fun _ _ => rfl
  | clrbit a => rw [exec_clrbit] at h ⊢; exact onOperand_withPolarity h fun _ _ => rfl
  | reserved0 r => rw [exec_reserved0] at h ⊢; exact onOperand_withPolarity h fun _ _ => rfl
  | reservedAB r => rw [exec_reservedAB] at h ⊢; exact onOperand_withPolarity h fun _ _ => rfl
  | reservedCF r => rw [exec_reservedCF] at h ⊢; exact onOperand_withPolarity h fun _ _ => rfl
  | tick1 v => rw [exec_tick1] at h ⊢; exact onTick_withPolarity h fun u => by simp only [render1_eq]
  | tick2 v => rw [exec_tick2] at h ⊢; exact onTick_withPolarity h fun u => by simp only [render2_eq]
  | tick3 v => rw [exec_tick3] at h ⊢; exact onTick_withPolarity h fun _ => rfl
  | tick4 v => rw [exec_tick4] at h ⊢; exact onTick_withPolarity h fun _ => rfl

theorem runEvent_withPolarity {e : Event} (h : runEvent e s = .next t) :
    runEvent e (s.withPolarity p) = .next (t.withPolarity p) := by
  cases e with
  | reset =>
    obtain rfl := Host.Outcome.next.inj h
    rfl
  | cmd w => exact exec_withPolarity h
  | tick v =>
    simp only [runEvent] at h ⊢
    split at h
    · exact exec_withPolarity h
    · obtain rfl := Host.Outcome.next.inj h
      rfl

end Polarity

/-! ### The lines -/

/-- The bits of four levels put side by side. -/
theorem fourLevels_bits : ∀ l₁ l₂ l₃ l₄ : Bool,
    let n : Nibble := BitVec.ofBool l₄ ++ BitVec.ofBool l₃ ++ BitVec.ofBool l₂ ++ BitVec.ofBool l₁
    n.getLsbD 0 = l₁ ∧ n.getLsbD 1 = l₂ ∧ n.getLsbD 2 = l₃ ∧ n.getLsbD 3 = l₄ := by decide

/-- Bit k-1 of `line` is the level of line k (R39). -/
theorem line_bit (s : State) {k : Nat} (h1 : 1 ≤ k) (h4 : k ≤ 4) : s.line.getLsbD (k - 1) = s.level k := by
  obtain ⟨hl₁, hl₂, hl₃, hl₄⟩ := fourLevels_bits (s.level 1) (s.level 2) (s.level 3) (s.level 4)
  obtain rfl | rfl | rfl | rfl : k = 1 ∨ k = 2 ∨ k = 3 ∨ k = 4 := by omega
  · exact hl₁
  · exact hl₂
  · exact hl₃
  · exact hl₄

theorem level_of_activeHigh (h : s.par.linePol = .activeHigh) (k : Nat) :
    s.level k = s.regs.out.getLsbD (k - 1) := by
  rw [State.level, h]
  rfl

theorem level_of_activeLow (h : s.par.linePol = .activeLow) (k : Nat) :
    s.level k = !s.regs.out.getLsbD (k - 1) := by
  rw [State.level, h]
  rfl

/-- A bit of `EN` is 1 exactly for the selected source (R24). -/
theorem en_bit_iff (s : State) (j : Nat) : s.en.getLsbD j = true ↔ j < 4 ∧ s.regs.sel.toNat = j + 1 := by
  constructor
  · intro h
    have hj : j < 4 := BitVec.lt_of_getLsbD h
    exact ⟨hj, (onehot4_bit s.regs.sel ⟨j, hj⟩).1 h⟩
  · rintro ⟨hj, hsel⟩
    exact (onehot4_bit s.regs.sel ⟨j, hj⟩).2 hsel

/-! ### The obligations -/

/-- Settles O52: each event keeps the invariant by `runEvent_inv`, and a step without an event changes nothing it
speaks of. -/
theorem everyStepKeepsTheInvariant : Obligations.EveryStepKeepsTheInvariant := by
  intro s t hs h
  obtain ⟨-, hregs, hpar, -⟩ | ⟨e, u, -, hregs, hpar, hrun⟩ := step_event_cases h
  · exact (inv_congr hregs hpar).2 hs
  · exact runEvent_inv ((inv_congr hregs hpar).2 hs) hrun

/-- Settles O10: a step is the step from the state with its outputs ended, whatever they were. -/
theorem stepDoesNotReadOutputs : Obligations.StepDoesNotReadOutputs := by
  intro s o
  calc step { s with outputs := o } = step s.beginStep := (step_beginStep { s with outputs := o }).symm
    _ = step s := step_beginStep s

/-- Settles O23: by `en_bit_iff`, a set bit of `EN` gives the number in `SEL`. -/
theorem onlyTheSelectedSourceIsEnabled : Obligations.OnlyTheSelectedSourceIsEnabled := by
  intro s
  refine ⟨rfl, fun k h1 h4 => ?_, fun j k hj hk => ?_⟩
  · rw [en_bit_iff]
    omega
  · obtain ⟨-, hj⟩ := (en_bit_iff s j).1 hj
    obtain ⟨-, hk⟩ := (en_bit_iff s k).1 hk
    omega

/-- Settles O24: by `runEvent_sel`. -/
theorem onlySelectionOrResetChangesSel : Obligations.OnlySelectionOrResetChangesSel := by
  intro s t h
  obtain ⟨-, hregs, -, -⟩ | ⟨e, u, he, hregs, -, hrun⟩ := step_event_cases h
  · exact .inl (by rw [hregs])
  · rw [he, ← hregs]
    obtain hkeep | ⟨n, hn, hsel⟩ | ⟨rfl, hsel⟩ | ⟨rfl, hsel⟩ := runEvent_sel hrun
    · exact .inl hkeep
    · exact .inr (.inl ⟨n, e, rfl, hn, hsel⟩)
    · exact .inr (.inr (.inl ⟨rfl, hsel⟩))
    · exact .inr (.inr (.inr ⟨rfl, hsel⟩))

/-- Settles O25: by the pulse of an accepted SELECT and the pulse of every other event. -/
theorem onlySelectPulsesAStart : Obligations.OnlySelectPulsesAStart := by
  intro s t h
  obtain ⟨hnone, -, -, hout⟩ | ⟨e, u, he, -, -, hrun⟩ := step_event_cases h
  · exact ⟨fun n e he _ => by simp [hnone] at he, fun _ => by rw [hout]⟩
  · refine ⟨fun n e' he' hn => ?_, fun hno => ?_⟩
    · obtain rfl := Option.some.inj (he.symm.trans he')
      exact runEvent_tmrStart_of_isSelect hn hrun
    · exact runEvent_tmrStart_of_not_isSelect (fun n => hno n e he) hrun

/-- Settles O39, by induction on the command words. -/
theorem patternStateSurvivesCommands : Obligations.PatternStateSurvivesCommands :=
  steps_commands_samePatternState

/-- Settles O40: by `runEvent_out` for every event but reset, which writes OUT_INIT. -/
theorem stepWritesOutAsTheRulesSay : Obligations.StepWritesOutAsTheRulesSay := by
  intro s t h
  obtain ⟨hnone, hregs, -, -⟩ | ⟨e, u, he, hregs, hpar, hrun⟩ := step_event_cases h
  · rw [hnone, hregs]
    exact ⟨fun _ => rfl, nofun, nofun⟩
  · rw [he, ← hregs, ← hpar]
    refine ⟨nofun, fun hreset => ?_, fun e' he' hne => ?_⟩
    · obtain rfl := Option.some.inj hreset
      obtain rfl := Host.Outcome.next.inj hrun
      rfl
    · obtain rfl := Option.some.inj he'
      exact runEvent_out hne hrun

/-- `OUT` holds the last mask written since reset, or OUT_INIT, from every state in which it does (R31). -/
theorem steps_out (n : Nat) : ∀ (s : State) (last : Option Nibble), s.regs.out = last.getD s.par.outInit →
    ∃ t, steps n s = .next t ∧ t.regs.out = (lastMask n s last).getD s.par.outInit := by
  induction n with
  | zero => exact fun s last h => ⟨s, rfl, h⟩
  | succ n ih =>
    intro s last h
    obtain ⟨u, hu⟩ := step_next s
    obtain ⟨hpar, -, -⟩ := stepLeavesParametersAndLaterInputs s u hu
    obtain ⟨hnone, hreset, hevent⟩ := stepWritesOutAsTheRulesSay s u hu
    obtain ⟨last', hlast, hout⟩ : ∃ last', lastMask (n + 1) s last = lastMask n u last' ∧
        u.regs.out = last'.getD s.par.outInit := by
      cases he : s.nextEvent.1 with
      | none => exact ⟨last, lastMask_of_noEvent hu he, (hnone he).trans h⟩
      | some e =>
        by_cases hne : e = .reset
        · subst hne
          exact ⟨none, lastMask_of_reset hu he, hreset he⟩
        · exact ⟨_, lastMask_of_event hu he hne, by rw [hevent e he hne, Option.getD_or, h]⟩
    rw [← hpar] at hout ⊢
    rw [hlast, steps_succ n hu]
    exact ih u last' hout

/-- Settles O41: the whole register holds the last mask by `steps_out`, so each of its bits does. -/
theorem outHoldsTheLastWrite : Obligations.OutHoldsTheLastWrite := by
  intro n s h
  obtain ⟨t, ht, hout⟩ := steps_out n s none h
  exact ⟨t, ht, fun k _ _ => by rw [hout]⟩

/-- Settles O42: by `line_bit`, and the level under each polarity. -/
theorem linesFollowOut : Obligations.LinesFollowOut := fun s k h1 h4 =>
  ⟨line_bit s h1 h4, fun h => level_of_activeHigh h k, fun h => level_of_activeLow h k⟩

/-- Settles O43: the next event is the same one, and running it does not read the polarity. -/
theorem polarityDoesNotMatterToAStep : Obligations.PolarityDoesNotMatterToAStep := by
  intro s t p h
  have hnext := nextEvent_commutes (State.withPolarity · p) (fun _ _ _ => rfl) s
  obtain ⟨u, hu, rfl⟩ | ⟨e, u, hu, hrun⟩ := step_cases h
  · rw [hu] at hnext
    exact step_of_noEvent hnext
  · rw [hu] at hnext
    exact (step_of_event hnext).trans (runEvent_withPolarity hrun)

/-- Settles O44: by `runEvent_resp`, the response is that of the event, and only a command word has one. -/
theorem onlyCommandsGetResponses : Obligations.OnlyCommandsGetResponses := by
  intro s t h
  obtain ⟨hnone, -, -, hout⟩ | ⟨e, u, he, -, -, hrun⟩ := step_event_cases h
  · simp [hnone, hout]
  · rw [he, runEvent_resp hrun]
    cases e with
    | reset => simp [eventResp]
    | cmd w => simp [eventResp]
    | tick v => simp [eventResp]

/-- Settles O47: the cycle leaves the response of its last event, which is its command's. -/
theorem responseShowsAfterTheCommandsCycle : Obligations.ResponseShowsAfterTheCommandsCycle := by
  intro s c cs hp hc
  obtain ⟨t, ht, htp, htc, hresp⟩ := steps_cycle_resp hp hc
  rw [cycle_resp] at hresp
  refine ⟨t, ht, htp, htc, ?_, fun hcmd hrst => ?_⟩
  · rw [State.respValid, hresp]
    cases c.cmdValid && !c.rst <;> rfl
  · rw [State.respCode, hresp, hcmd, hrst]
    rfl

/-- Settles O6: one equation of `State.nextEvent` for each case. -/
theorem eventsAreTakenInOrder : Obligations.EventsAreTakenInOrder := fun _ =>
  ⟨fun _ _ => nextEvent_of_pending, fun _ _ _ _ => nextEvent_of_cycle, fun _ _ => nextEvent_of_emptyCycle,
    nextEvent_of_noInput⟩

/-- Settles O51: `State.reset` is what the reset event leaves of it, and its CNTW is legal. -/
theorem resetMeetsTheInvariant : Obligations.ResetMeetsTheInvariant :=
  resetEvent_inv (s := State.reset) (Nat.le_refl 2)

end Sys2Proof.Machine

/-! ## Proofs: the order and repetition of writes (20_memory.md)

An output command writes `OUT` by a rule that repeating does not change, and the tick gate is the barrier that keeps
late ticks of stopped sources from `OUT` and from the pattern state. -/

namespace Sys2Proof.Machine

variable {s t u : State}

/-! ### Writing `OUT` twice -/

/-- A command performed or rejected twice leaves `OUT` as once, if its action leaves alone an `OUT` that it
wrote. -/
theorem onOperand_out_idempotent {α : Type} {o : Except Resp α} {act : α → State → State}
    (h : onOperand o act s = .next t) (h' : onOperand o act t = .next u)
    (hact : ∀ a v w, v.regs.out = (act a w).regs.out → (act a v).regs.out = v.regs.out) :
    u.regs.out = t.regs.out := by
  obtain ⟨c, rfl, rfl⟩ | ⟨a, rfl, rfl⟩ := onOperand_cases h
  · obtain rfl := Host.Outcome.next.inj h'
    rfl
  · obtain rfl := Host.Outcome.next.inj h'
    exact hact a _ s.beginStep rfl

/-- Setting a bit again leaves `OUT`. -/
theorem setBit_out_of_set {i : BitVec 2} (h : t.regs.out = (s.setBit i).regs.out) :
    (t.setBit i).regs.out = t.regs.out := by
  simp only [State.setBit, State.outWrite_out] at h ⊢
  rw [h, BitVec.or_assoc, BitVec.or_self]

/-- Clearing a bit again leaves `OUT`. -/
theorem clearBit_out_of_cleared {i : BitVec 2} (h : t.regs.out = (s.clearBit i).regs.out) :
    (t.clearBit i).regs.out = t.regs.out := by
  simp only [State.clearBit, State.outWrite_out] at h ⊢
  rw [h, BitVec.and_assoc, BitVec.and_self]

/-- An output command performed again leaves `OUT`: a fixed mask is the same mask (R45), and a set or cleared bit is set
or cleared already (R85, R86). -/
theorem outputCommand_out_idempotent {i : Instr} (hi : isOutputCommand i = true) (h : exec i s = .next t)
    (h' : exec i t = .next u) : u.regs.out = t.regs.out := by
  cases i with
  | allOn z => rw [exec_allOn] at h h'; exact onOperand_out_idempotent h h' fun _ _ _ hw => hw.symm
  | allOff z => rw [exec_allOff] at h h'; exact onOperand_out_idempotent h h' fun _ _ _ hw => hw.symm
  | setOdd z => rw [exec_setOdd] at h h'; exact onOperand_out_idempotent h h' fun _ _ _ hw => hw.symm
  | setEven z => rw [exec_setEven] at h h'; exact onOperand_out_idempotent h h' fun _ _ _ hw => hw.symm
  | wrmask m => rw [exec_wrmask] at h h'; exact onOperand_out_idempotent h h' fun _ _ _ hw => hw.symm
  | setbit a => rw [exec_setbit] at h h'; exact onOperand_out_idempotent h h' fun _ _ _ => setBit_out_of_set
  | clrbit a => rw [exec_clrbit] at h h'; exact onOperand_out_idempotent h h' fun _ _ _ => clearBit_out_of_cleared
  | select n => cases hi
  | stopAll z => cases hi
  | reserved0 r => cases hi
  | reservedAB r => cases hi
  | reservedCF r => cases hi
  | tick1 v => cases hi
  | tick2 v => cases hi
  | tick3 v => cases hi
  | tick4 v => cases hi

/-! ### Ticks that the gate drops -/

/-- A tick vector without the bit of the selected pattern, or with no pattern selected, only ends the last outputs. -/
theorem runEvent_tick_dropped {v : Nibble} (h : s.regs.sel = 0 ∨ v.getLsbD (s.regs.sel.toNat - 1) = false) :
    runEvent (.tick v) s = .next s.beginStep := by
  simp only [runEvent, decodeTick_none_iff.2 h]

/-- Any number of pending tick vectors that the gate drops completes and writes no element. -/
theorem steps_droppedTicks_regs (vs : List Nibble) :
    ∀ s : State, s.pending = vs.map Event.tick →
      (∀ v ∈ vs, s.regs.sel = 0 ∨ v.getLsbD (s.regs.sel.toNat - 1) = false) →
      ∃ t, steps vs.length s = .next t ∧ t.regs = s.regs := by
  induction vs with
  | nil => exact fun s _ _ => ⟨s, rfl, rfl⟩
  | cons v vs ih =>
    intro s hs hdrop
    obtain ⟨hv, hvs⟩ := List.forall_mem_cons.1 hdrop
    have hstep := (step_pending hs).trans (runEvent_tick_dropped hv)
    obtain ⟨t, ht, hregs⟩ := ih (State.beginStep { s with pending := vs.map Event.tick }) rfl hvs
    exact ⟨t, (steps_succ vs.length hstep).trans ht, hregs⟩

/-! ### The obligations -/

/-- Settles O19: both runs complete, and the second leaves `OUT` by `outputCommand_out_idempotent`. -/
theorem outputCommandsAreIdempotent : Obligations.OutputCommandsAreIdempotent := by
  intro i s hi
  obtain ⟨t, ht⟩ := exec_next i s
  obtain ⟨u, hu⟩ := exec_next i t
  exact ⟨t, u, ht, hu, outputCommand_out_idempotent hi ht hu⟩

/-- Settles O34: by `steps_droppedTicks_regs`, and `tmr_run` follows `SEL`. -/
theorem staleTicksHaveNoEffect : Obligations.StaleTicksHaveNoEffect := by
  intro vs s hs hdrop
  obtain ⟨t, ht, hregs⟩ := steps_droppedTicks_regs vs s hs fun v hv => or_iff_not_imp_left.2 (hdrop v hv)
  exact ⟨t, ht, hregs, by simp only [State.tmrRun, State.en, hregs]⟩

end Sys2Proof.Machine

/-! ## Proofs: the encoding (30_encoding.md)

The decoder and the encoder undo each other, a word meets the mask and match of its own row alone, and a word that the
tables do not answer with OK is rejected. Then the events of a clock cycle, and the pseudo-instruction IDLE. -/

namespace Sys2Proof

/-! ### Encodable instructions -/

/-- A check reports no other check than itself. -/
theorem FormCheck.unless_ne_some {c d : FormCheck} (h : c ≠ d) (holds : Bool) : c.unless holds ≠ some d := by
  cases holds with
  | true => exact nofun
  | false => exact fun hd => h (Option.some.inj hd)

/-- A check reports itself exactly when it fails. -/
theorem FormCheck.unless_ne_some_self_iff {c : FormCheck} {holds : Bool} :
    c.unless holds ≠ some c ↔ holds = true := by
  cases holds with
  | true => exact ⟨fun _ => rfl, fun _ => nofun⟩
  | false => exact ⟨fun h => absurd rfl h, nofun⟩

/-- Every command is encodable, legal or not. -/
theorem encodable_of_command {i : Instr} (h : i.format = .cmd) : i.Encodable := by
  cases i with
  | select n => exact FormCheck.unless_ne_some (by decide) _
  | stopAll z => exact FormCheck.unless_ne_some (by decide) _
  | allOn z => exact FormCheck.unless_ne_some (by decide) _
  | allOff z => exact FormCheck.unless_ne_some (by decide) _
  | setOdd z => exact FormCheck.unless_ne_some (by decide) _
  | setEven z => exact FormCheck.unless_ne_some (by decide) _
  | wrmask m => exact nofun
  | setbit a => exact FormCheck.unless_ne_some (by decide) _
  | clrbit a => exact FormCheck.unless_ne_some (by decide) _
  | reserved0 r => exact nofun
  | reservedAB r => exact nofun
  | reservedCF r => exact nofun
  | tick1 v => cases h
  | tick2 v => cases h
  | tick3 v => cases h
  | tick4 v => cases h

/-! ### Decode of encode -/

@[simp] theorem opField_append (op arg : Nibble) : opField (op ++ arg) = op :=
  BitVec.extractLsb'_append_eq_left

@[simp] theorem argField_append (op arg : Nibble) : argField (op ++ arg) = arg :=
  BitVec.extractLsb'_append_eq_right

/-- The opcodes 0xA and 0xB share one row, whose operand holds the lowest opcode bit. -/
theorem decodeCmd_reservedAB : ∀ r : BitVec 5, decodeCmd (0b101#3 ++ r) = .reservedAB r := by decide

/-- The opcodes 0xC to 0xF share one row, whose operand holds the two lowest opcode bits. -/
theorem decodeCmd_reservedCF : ∀ r : BitVec 6, decodeCmd (0b11#2 ++ r) = .reservedCF r := by decide

/-- The word that an instruction encodes to decodes to it. -/
theorem decodeCmd_of_encode {i : Instr} {w : CmdWord} (h : i.encode = .cmd w) : decodeCmd w = i := by
  cases i with
  | select n => cases h; simp [decodeCmd]
  | stopAll z => cases h; simp [decodeCmd]
  | allOn z => cases h; simp [decodeCmd]
  | allOff z => cases h; simp [decodeCmd]
  | setOdd z => cases h; simp [decodeCmd]
  | setEven z => cases h; simp [decodeCmd]
  | wrmask m => cases h; simp [decodeCmd]
  | setbit a => cases h; simp [decodeCmd]
  | clrbit a => cases h; simp [decodeCmd]
  | reserved0 r => cases h; simp [decodeCmd]
  | reservedAB r => cases h; exact decodeCmd_reservedAB r
  | reservedCF r => cases h; exact decodeCmd_reservedCF r
  | tick1 v => cases h
  | tick2 v => cases h
  | tick3 v => cases h
  | tick4 v => cases h

/-- A TICK row with its own bit is what its vector is while its pattern is selected (R66). -/
theorem decode_encode_of_tick {i : Instr} (hi : i.Encodable) (h : i.format = .tick) :
    decode i.ownSel i.encode = some i := by
  cases i with
  | tick1 v => exact if_pos (FormCheck.unless_ne_some_self_iff.1 hi)
  | tick2 v => exact if_pos (FormCheck.unless_ne_some_self_iff.1 hi)
  | tick3 v => exact if_pos (FormCheck.unless_ne_some_self_iff.1 hi)
  | tick4 v => exact if_pos (FormCheck.unless_ne_some_self_iff.1 hi)
  | select n => cases h
  | stopAll z => cases h
  | allOn z => cases h
  | allOff z => cases h
  | setOdd z => cases h
  | setEven z => cases h
  | wrmask m => cases h
  | setbit a => cases h
  | clrbit a => cases h
  | reserved0 r => cases h
  | reservedAB r => cases h
  | reservedCF r => cases h

/-! ### The rows of the opcode table -/

/-- Every instruction's encoding meets the mask and match of its row. -/
theorem tableRow_statement : ∀ i : Instr, Laws.TableRow.Statement i
  | .select n => Laws.TableRow.select n
  | .stopAll z => Laws.TableRow.stopAll z
  | .allOn z => Laws.TableRow.allOn z
  | .allOff z => Laws.TableRow.allOff z
  | .setOdd z => Laws.TableRow.setOdd z
  | .setEven z => Laws.TableRow.setEven z
  | .wrmask m => Laws.TableRow.wrmask m
  | .setbit a => Laws.TableRow.setbit a
  | .clrbit a => Laws.TableRow.clrbit a
  | .reserved0 r => Laws.TableRow.reserved0 r
  | .reservedAB r => Laws.TableRow.reservedAB r
  | .reservedCF r => Laws.TableRow.reservedCF r
  | .tick1 v => Laws.TableRow.tick1 v
  | .tick2 v => Laws.TableRow.tick2 v
  | .tick3 v => Laws.TableRow.tick3 v
  | .tick4 v => Laws.TableRow.tick4 v

/-- A command's event is on the command port. -/
theorem encode_of_command {i : Instr} (h : i.format = .cmd) : ∃ w, i.encode = .cmd w := by
  obtain ⟨-, hport, -⟩ := tableRow_statement i (encodable_of_command h)
  exact hport.1 h

/-- A word meets the mask and match of the row it decodes to. -/
theorem word_meets_own_row (w : CmdWord) : w &&& (decodeCmd w).tableRow.1 = (decodeCmd w).tableRow.2 := by
  obtain ⟨hrow, -, -⟩ := tableRow_statement (decodeCmd w) (encodable_of_command (decodeCmd_format w))
  rwa [Machine.encode_decodeCmd] at hrow

/-- The mask and match of each command row. -/
def commandRows : List (CmdWord × CmdWord) :=
  [(0xF0, 0x00), (0xF0, 0x10), (0xF0, 0x20), (0xF0, 0x30), (0xF0, 0x40), (0xF0, 0x50), (0xF0, 0x60), (0xF0, 0x70),
   (0xF0, 0x80), (0xF0, 0x90), (0xE0, 0xA0), (0xC0, 0xC0)]

theorem tableRow_mem_commandRows {i : Instr} (h : i.format = .cmd) : i.tableRow ∈ commandRows := by
  cases i <;> cases h <;> simp [Instr.tableRow, commandRows]

/-- Two rows that one word meets have the same match under both masks. -/
theorem match_and_mask_comm {w m v m' v' : CmdWord} (h : w &&& m = v) (h' : w &&& m' = v') : v &&& m' = v' &&& m := by
  rw [← h, ← h', BitVec.and_assoc, BitVec.and_assoc, BitVec.and_comm m m']

/-- Two command rows with the same match under both masks are one row. -/
theorem commandRows_disjoint : ∀ p ∈ commandRows, ∀ q ∈ commandRows, p.2 &&& q.1 = q.2 &&& p.1 → p = q := by
  simp [commandRows]

end Sys2Proof

namespace Sys2Proof.Machine

variable {s t : State}

/-! ### Rejected commands -/

/-- A command whose operand check answers another code than OK is rejected with it. -/
theorem onOperand_rejects {α : Type} {o : Except Resp α} {act : α → State → State} {c : Resp} (hc : c ≠ .ok)
    (h : some (operandResp o) = some c) : onOperand o act s = .next (s.reject c) := by
  cases o with
  | error d => rw [← Option.some.inj h]; rfl
  | ok a => exact absurd (Option.some.inj h).symm hc

/-- An instruction that answers another code than OK changes nothing but the outputs (R142). -/
theorem exec_rejects {i : Instr} {c : Resp} (hc : c ≠ .ok) (h : instrResp i = some c) :
    exec i s = .next (s.reject c) := by
  cases i with
  | select n => rw [exec_select]; exact onOperand_rejects hc h
  | stopAll z => rw [exec_stopAll]; exact onOperand_rejects hc h
  | allOn z => rw [exec_allOn]; exact onOperand_rejects hc h
  | allOff z => rw [exec_allOff]; exact onOperand_rejects hc h
  | setOdd z => rw [exec_setOdd]; exact onOperand_rejects hc h
  | setEven z => rw [exec_setEven]; exact onOperand_rejects hc h
  | wrmask m => rw [exec_wrmask]; exact onOperand_rejects hc h
  | setbit a => rw [exec_setbit]; exact onOperand_rejects hc h
  | clrbit a => rw [exec_clrbit]; exact onOperand_rejects hc h
  | reserved0 r => rw [exec_reserved0]; exact onOperand_rejects hc h
  | reservedAB r => rw [exec_reservedAB]; exact onOperand_rejects hc h
  | reservedCF r => rw [exec_reservedCF]; exact onOperand_rejects hc h
  | tick1 v => cases h
  | tick2 v => cases h
  | tick3 v => cases h
  | tick4 v => cases h

/-- A word that the tables reject changes nothing but the outputs (R65, R142). -/
theorem runEvent_rejected_word {w : CmdWord} {c : Resp} (hc : c ≠ .ok) (h : expectedResponse w = c) (s : State) :
    runEvent (.cmd w) s = .next (s.reject c) :=
  exec_rejects hc ((instrResp_decodeCmd w).trans (congrArg some h))

/-- The legal words are those that the tables answer with OK (R64, R65). -/
theorem wellFormed_iff_expectedResponse_ok :
    ∀ w : CmdWord, (decodeCmd w).WellFormed ↔ expectedResponse w = .ok := by decide

/-- A code that is given where a condition for OK fails is the answer if it is not OK. -/
theorem Resp.ite_ok_eq_of_ne_ok {p : Prop} [Decidable p] {c : Resp} (h : (if p then Resp.ok else c) ≠ .ok) :
    (if p then Resp.ok else c) = c := if_neg fun hp => h (if_pos hp)

/-- An illegal word with a legal opcode has a bad index if it is a SELECT, and a bad argument if not. -/
theorem expectedResponse_of_illegal {w : CmdWord} (h1 : 1 ≤ w.toNat / 16) (h9 : w.toNat / 16 ≤ 9)
    (h : expectedResponse w ≠ .ok) : expectedResponse w = if w.toNat / 16 = 1 then .badIndex else .badArg := by
  have hop : ¬ (w.toNat / 16 = 0 ∨ 10 ≤ w.toNat / 16) := by omega
  simp only [expectedResponse, if_neg hop] at h ⊢
  by_cases hsel : w.toNat / 16 = 1
  · simp only [if_pos hsel] at h ⊢
    exact Resp.ite_ok_eq_of_ne_ok h
  · simp only [if_neg hsel] at h ⊢
    by_cases hmask : w.toNat / 16 = 7
    · exact absurd (if_pos hmask) h
    · simp only [if_neg hmask] at h ⊢
      by_cases hbit : w.toNat / 16 = 8 ∨ w.toNat / 16 = 9
      · simp only [if_pos hbit] at h ⊢
        exact Resp.ite_ok_eq_of_ne_ok h
      · simp only [if_neg hbit] at h ⊢
        exact Resp.ite_ok_eq_of_ne_ok h

/-- The number of legal command words is that of R65. -/
theorem legal_word_count :
    ((List.range 256).filter (fun w => decide (decodeCmd (BitVec.ofNat 8 w)).WellFormed)).length = 33 := by decide

/-- The words that are not legal are the rest of the 256. -/
theorem illegal_word_count :
    ((List.range 256).filter (fun w => decide ¬ (decodeCmd (BitVec.ofNat 8 w)).WellFormed)).length = 223 := by
  have hsum := List.length_eq_length_filter_add (l := List.range 256)
    (fun w => decide (decodeCmd (BitVec.ofNat 8 w)).WellFormed)
  rw [legal_word_count, List.length_range] at hsum
  simp only [decide_not]
  omega

/-! ### The events of a clock cycle -/

/-- Reset drops the cycle's tick and command (R161). -/
theorem events_of_reset {c : PortInputs} (h : c.rst = true) : c.events = [.reset] := if_pos h

/-- Without reset, the tick vector comes before the command (R146). -/
theorem events_of_tick {c : PortInputs} (hrst : c.rst = false) (htick : c.tick ≠ 0#4) :
    c.events = .tick c.tick :: if c.cmdValid then [.cmd c.cmdData] else [] := by
  simp only [PortInputs.events, hrst, Bool.false_eq_true, if_false, if_neg htick, List.cons_append, List.nil_append]

/-- The tick vector 0b0000 is no event (R66). -/
theorem events_of_no_tick {c : PortInputs} (hrst : c.rst = false) (htick : c.tick = 0#4) :
    c.events = if c.cmdValid then [.cmd c.cmdData] else [] := by
  simp only [PortInputs.events, hrst, Bool.false_eq_true, if_false, if_pos htick, List.nil_append]

/-- A cycle with one event is one step, the running of that event. -/
theorem step_of_cycle {c : PortInputs} {cs : List PortInputs} {e : Event} (hp : s.pending = [])
    (hc : s.cycles = c :: cs) (he : c.events = [e]) : step s = runEvent e { s with cycles := cs } := by
  rw [step_of_event (nextEvent_of_cycle hp hc he), ← hp]

/-- A cycle with two events is two steps, the running of one event and then of the other. -/
theorem steps_of_cycle {c : PortInputs} {cs : List PortInputs} {e e' : Event} (hp : s.pending = [])
    (hc : s.cycles = c :: cs) (he : c.events = [e, e']) :
    ∃ t u, step s = .next t ∧ step t = .next u ∧
      runEvent e { s with pending := [e'], cycles := cs } = .next t ∧
      runEvent e' { t with pending := [] } = .next u ∧ u.pending = [] ∧ u.cycles = cs := by
  obtain ⟨t, ht⟩ := runEvent_next e { s with pending := [e'], cycles := cs }
  obtain ⟨-, htp, htc⟩ := runEvent_keeps ht
  obtain ⟨u, hu⟩ := runEvent_next e' { t with pending := [] }
  obtain ⟨-, hup, huc⟩ := runEvent_keeps hu
  exact ⟨t, u, (step_of_event (nextEvent_of_cycle hp hc he)).trans ht, (step_pending htp).trans hu, ht, hu, hup,
    huc.trans htc⟩

/-! ### IDLE -/

/-- IDLE is STOP_ALL and then ALL_OFF (R68). -/
theorem assembleLine_idle : assembleLine "IDLE" = some [.cmd 0x20, .cmd 0x40] := by decide

theorem runEvent_stopAll_word (s : State) :
    runEvent (.cmd 0x20) s = .next ((s.beginStep.setSel 0).respond .ok) := rfl

theorem runEvent_allOff_word (s : State) :
    runEvent (.cmd 0x40) s = .next (s.beginStep.clearAll.respond .ok) := rfl

/-! ### The obligations -/

/-- Settles O2: a command by its word, under every `SEL`, and a TICK row by its own bit. -/
theorem decodeInvertsEncode : Obligations.DecodeInvertsEncode := by
  intro i hi
  refine ⟨fun hcmd sel => ?_, decode_encode_of_tick hi⟩
  obtain ⟨w, hw⟩ := encode_of_command hcmd
  rw [hw]
  exact congrArg some (decodeCmd_of_encode hw)

/-- Settles O3: a word is what its instruction encodes, and a vector that decodes has the bit of its TICK row. -/
theorem encodeInvertsDecode : Obligations.EncodeInvertsDecode := by
  intro sel e i h
  cases e with
  | reset => cases h
  | cmd w =>
    obtain rfl := Option.some.inj h
    exact ⟨encode_decodeCmd w, encodable_of_command (decodeCmd_format w)⟩
  | tick v =>
    obtain ⟨-, hv, rfl⟩ | ⟨-, hv, rfl⟩ | ⟨-, hv, rfl⟩ | ⟨-, hv, rfl⟩ := decodeTick_some h
    · exact ⟨rfl, FormCheck.unless_ne_some_self_iff.2 hv⟩
    · exact ⟨rfl, FormCheck.unless_ne_some_self_iff.2 hv⟩
    · exact ⟨rfl, FormCheck.unless_ne_some_self_iff.2 hv⟩
    · exact ⟨rfl, FormCheck.unless_ne_some_self_iff.2 hv⟩

/-- Settles O4: a word meets the row it decodes to, and no other. -/
theorem everyWordMatchesItsRowOnly : Obligations.EveryWordMatchesItsRowOnly := by
  intro w i hi
  constructor
  · intro hrow
    exact commandRows_disjoint _ (tableRow_mem_commandRows hi) _ (tableRow_mem_commandRows (decodeCmd_format w))
      (match_and_mask_comm hrow (word_meets_own_row w))
  · intro hrow
    rw [hrow]
    exact word_meets_own_row w

/-- Settles O13: what the tables answer other than OK is a rejection, and it leaves all but the outputs. -/
theorem illegalWordsAreRejected : Obligations.IllegalWordsAreRejected := by
  refine ⟨fun _ _ => exec_rejects (by decide) rfl, fun _ _ => exec_rejects (by decide) rfl,
    fun _ _ => exec_rejects (by decide) rfl, fun w s hop => ?_, fun w s h1 h9 hw => ?_, legal_word_count,
    illegal_word_count⟩
  · exact runEvent_rejected_word (by decide) (if_pos hop) s
  · have hresp := mt (wellFormed_iff_expectedResponse_ok w).2 hw
    rw [← expectedResponse_of_illegal h1 h9 hresp]
    exact runEvent_rejected_word hresp rfl s

/-- Settles O45: by the events of the cycle in each case of its inputs. -/
theorem cycleOrderIsResetOrTickThenCommand : Obligations.CycleOrderIsResetOrTickThenCommand := by
  intro s c cs hp hc
  refine ⟨fun hrst => ?_, fun hrst htick hcmd => ?_, fun hrst htick hcmd => ?_, fun hrst htick hcmd => ?_,
    fun hrst htick hcmd => ?_⟩
  · exact step_of_cycle hp hc (events_of_reset hrst)
  · exact steps_of_cycle hp hc (by rw [events_of_tick hrst htick, if_pos hcmd])
  · exact step_of_cycle hp hc (by simp [events_of_tick hrst htick, hcmd])
  · exact step_of_cycle hp hc (by rw [events_of_no_tick hrst htick, if_pos hcmd])
  · exact step_of_noEvent (nextEvent_of_emptyCycle hp hc (by simp [events_of_no_tick hrst htick, hcmd]))

/-- Settles O48: STOP_ALL clears `SEL`, ALL_OFF clears `OUT`, and neither writes another element. -/
theorem idleStopsAndClears : Obligations.IdleStopsAndClears := by
  intro s es hline hs
  obtain rfl := Option.some.inj (assembleLine_idle.symm.trans hline)
  have hstop := (step_pending hs).trans (runEvent_stopAll_word _)
  refine ⟨_, (steps_succ 1 hstop).trans (steps_succ 0 ((step_pending rfl).trans (runEvent_allOff_word _))), ?_, ?_⟩
  · rfl
  · rfl

/-- Settles O1: each word is the encoding of its instruction, the vector 0b0010 that of TICK2, and the other two vectors
lack the bit of the selected pattern. -/
theorem sampleWordsDecode : Obligations.SampleWordsDecode :=
  ⟨decodeCmd_of_encode rfl, decodeCmd_of_encode rfl, decodeCmd_of_encode rfl, decodeCmd_of_encode rfl,
    decodeCmd_of_encode rfl, decodeCmd_of_encode rfl, decodeCmd_of_encode rfl, decodeCmd_of_encode rfl,
    decodeCmd_of_encode rfl, decode_encode_of_tick (i := .tick2 0b0010) (by decide) rfl,
    decodeTick_none_iff.2 (.inr rfl), decodeTick_none_iff.2 (.inl rfl)⟩

end Sys2Proof.Machine

/-! ## Proofs: the output surface (40_output_surface.md)

An accepted output command is one write of `OUT` and the response OK. Which mask it writes is said once for each
command, and the frame, the equality of commands with one mask, and the single bits follow from that. -/

namespace Sys2Proof

/-- A check reports nothing exactly when it holds. -/
theorem FormCheck.unless_eq_none_iff {c : FormCheck} {holds : Bool} : c.unless holds = none ↔ holds = true := by
  cases holds with
  | true => exact ⟨fun _ => rfl, fun _ => rfl⟩
  | false => exact ⟨nofun, nofun⟩

/-- A word is the bitwise or of its opcode in the high half and its operand in the low half (R61). -/
theorem word_eq_or : ∀ op arg : Nibble, (op ++ arg : CmdWord) = (op ++ 0#4) ||| arg.setWidth 8 := by decide

/-- Two instructions with one command word are one instruction. -/
theorem eq_of_encode_eq_word {i j : Instr} {w : CmdWord} (hi : i.encode = .cmd w) (hj : j.encode = .cmd w) : i = j :=
  (decodeCmd_of_encode hi).symm.trans (decodeCmd_of_encode hj)

end Sys2Proof

namespace Sys2Proof.Machine

/-! ### Single bits of a mask -/

/-- The mask of line `i+1` has bit `i` and no other (R8). -/
theorem lineMask_bit (i : Nat) {j : Nat} (hj : j < 4) : (0b0001#4 <<< i).getLsbD j = decide (j = i) := by
  calc (0b0001#4 <<< i).getLsbD j = (BitVec.twoPow 4 i).getLsbD j := rfl
    _ = decide (i < 4 ∧ i = j) := by rw [BitVec.getLsbD_twoPow, Bool.decide_and]
    _ = decide (j = i) := decide_eq_decide.2 (by omega)

/-- Setting bit `i` sets it and leaves the other bits (R85). -/
theorem setLine_bit (o : Nibble) (i : Nat) {j : Nat} (hj : j < 4) :
    (o ||| (0b0001#4 <<< i)).getLsbD j = (decide (j = i) || o.getLsbD j) := by
  rw [BitVec.getLsbD_or, lineMask_bit i hj, Bool.or_comm]

/-- Clearing bit `i` clears it and leaves the other bits (R86). -/
theorem clearLine_bit (o : Nibble) (i : Nat) {j : Nat} (hj : j < 4) :
    (o &&& ~~~(0b0001#4 <<< i)).getLsbD j = (!decide (j = i) && o.getLsbD j) := by
  rw [BitVec.getLsbD_and, BitVec.getLsbD_not, lineMask_bit i hj, decide_eq_true hj, Bool.true_and, Bool.and_comm]

/-! ### The accepted output commands -/

/-- What an accepted output command with the mask `m` leaves: the write of `OUT` and the response OK. -/
def State.writeAndAnswer (m : Nibble) (s : State) : State := (s.beginStep.outWrite m).respond .ok

theorem State.writeAndAnswer_eq (m : Nibble) (s : State) : s.writeAndAnswer m =
    { s with regs := { s.regs with out := m }, outputs := { tmrStart := 0b0000, resp := some .ok } } := rfl

theorem exec_allOn_zero (s : State) : exec (.allOn 0) s = .next (s.writeAndAnswer 0b1111) := rfl
theorem exec_allOff_zero (s : State) : exec (.allOff 0) s = .next (s.writeAndAnswer 0b0000) := rfl
theorem exec_setOdd_zero (s : State) : exec (.setOdd 0) s = .next (s.writeAndAnswer 0b0101) := rfl
theorem exec_setEven_zero (s : State) : exec (.setEven 0) s = .next (s.writeAndAnswer 0b1010) := rfl
theorem exec_wrmask_mask (m : Nibble) (s : State) : exec (.wrmask m) s = .next (s.writeAndAnswer m) := rfl

theorem exec_setbit_legal {a : Nibble} (ha : a.toNat < 4) (s : State) :
    exec (.setbit a) s = .next (s.writeAndAnswer (s.regs.out ||| (0b0001#4 <<< a.toNat))) := by
  rw [exec_setbit, formI_legal ha, onOperand_ok, State.setBit, bitIndex_toNat a ha]
  rfl

theorem exec_clrbit_legal {a : Nibble} (ha : a.toNat < 4) (s : State) :
    exec (.clrbit a) s = .next (s.writeAndAnswer (s.regs.out &&& ~~~(0b0001#4 <<< a.toNat))) := by
  rw [exec_clrbit, formI_legal ha, onOperand_ok, State.clearBit, bitIndex_toNat a ha]
  rfl

/-- A command of form Z that passes its check has the operand 0. -/
theorem eq_zero_of_zeroOperand {z : Nibble} (h : FormCheck.zeroOperand.unless (z == 0) = none) : z = 0 :=
  eq_of_beq (FormCheck.unless_eq_none_iff.1 h)

/-- The operand of a command of form I that passes its check is a bit index. -/
theorem lt_four_of_bitIndex {a : Nibble} (h : FormCheck.bitIndex.unless (a.toNat < 4) = none) : a.toNat < 4 :=
  of_decide_eq_true (FormCheck.unless_eq_none_iff.1 h)

/-- An accepted output command writes the mask of its word by the table of R87 to R93, and nothing else. -/
theorem exec_outputCommand {i : Instr} (hi : isOutputCommand i = true) (hw : i.WellFormed) (s : State) :
    ∃ m, maskWritten s.regs i.encode = some m ∧ exec i s = .next (s.writeAndAnswer m) := by
  cases i with
  | allOn z => obtain rfl := eq_zero_of_zeroOperand hw; exact ⟨_, mask_allOn s.regs.out 0, exec_allOn_zero s⟩
  | allOff z => obtain rfl := eq_zero_of_zeroOperand hw; exact ⟨_, mask_allOff s.regs.out 0, exec_allOff_zero s⟩
  | setOdd z => obtain rfl := eq_zero_of_zeroOperand hw; exact ⟨_, mask_setOdd s.regs.out 0, exec_setOdd_zero s⟩
  | setEven z => obtain rfl := eq_zero_of_zeroOperand hw; exact ⟨_, mask_setEven s.regs.out 0, exec_setEven_zero s⟩
  | wrmask m => exact ⟨m, mask_wrmask _ m, exec_wrmask_mask m s⟩
  | setbit a =>
    have ha := lt_four_of_bitIndex hw
    exact ⟨_, (mask_setbit _ a).trans (if_pos ha), by rw [bitIndex_toNat a ha]; exact exec_setbit_legal ha s⟩
  | clrbit a =>
    have ha := lt_four_of_bitIndex hw
    exact ⟨_, (mask_clrbit _ a).trans (if_pos ha), by rw [bitIndex_toNat a ha]; exact exec_clrbit_legal ha s⟩
  | select n => cases hi
  | stopAll z => cases hi
  | reserved0 r => cases hi
  | reservedAB r => cases hi
  | reservedCF r => cases hi
  | tick1 v => cases hi
  | tick2 v => cases hi
  | tick3 v => cases hi
  | tick4 v => cases hi

/-! ### The rejected output commands -/

theorem operandResp_formZ_nonzero {z : Nibble} (hz : z ≠ 0) : operandResp (formZ z) = .badArg :=
  congrArg operandResp (formZ_nonzero hz)

theorem operandResp_formI_illegal {a : Nibble} (ha : 4 ≤ a.toNat) : operandResp (formI a) = .badArg :=
  congrArg operandResp (formI_illegal ha)

/-! ### The obligations -/

/-- Settles O15: WRMASK and a command with a fixed mask leave the same state, and one word is one instruction. -/
theorem writeMaskCommand : Obligations.WriteMaskCommand := by
  intro m s
  refine ⟨congrArg Event.cmd (word_eq_or 0b0111 m), exec_wrmask_mask m s,
    (exec_allOn_zero s).trans (exec_wrmask_mask 0xF s).symm, (exec_allOff_zero s).trans (exec_wrmask_mask 0x0 s).symm,
    (exec_setOdd_zero s).trans (exec_wrmask_mask 0x5 s).symm, (exec_setEven_zero s).trans (exec_wrmask_mask 0xA s).symm,
    fun i hi hword => ?_, fun hm t ht => ?_⟩
  · rw [eq_of_encode_eq_word (j := .wrmask m) hword rfl] at hi
    simp at hi
  · rw [exec_wrmask_mask, hm] at ht
    rw [← Host.Outcome.next.inj ht, State.writeAndAnswer_eq]

/-- Settles O16: the bits of the mask written by `setLine_bit`. -/
theorem setBitCommand : Obligations.SetBitCommand := by
  intro a s
  refine ⟨fun ha => ⟨congrArg Event.cmd (word_eq_or 0b1000 a), _, exec_setbit_legal ha s, rfl,
    fun j hj => setLine_bit s.regs.out a.toNat hj⟩, fun ha => ?_⟩
  exact exec_rejects (by decide) (congrArg some (operandResp_formI_illegal ha))

/-- Settles O17: the bits of the mask written by `clearLine_bit`. -/
theorem clearBitCommand : Obligations.ClearBitCommand := by
  intro a s
  refine ⟨fun ha => ⟨congrArg Event.cmd (word_eq_or 0b1001 a), _, exec_clrbit_legal ha s, rfl,
    fun j hj => clearLine_bit s.regs.out a.toNat hj⟩, fun ha => ?_⟩
  exact exec_rejects (by decide) (congrArg some (operandResp_formI_illegal ha))

/-- Settles O18: by `exec_outputCommand`, and `EN` and `tmr_run` follow `SEL`. -/
theorem outputCommandFrame : Obligations.OutputCommandFrame := by
  intro i s hi hw
  obtain ⟨m, hm, ht⟩ := exec_outputCommand hi hw s
  exact ⟨_, ht, hm.symm, rfl, rfl, rfl, rfl, rfl, rfl, rfl, rfl, rfl, rfl, rfl⟩

/-- Settles O14: each command's mask, and BAD_ARG for every operand that form Z rejects. -/
theorem fixedMaskCommands : Obligations.FixedMaskCommands := by
  intro s
  refine ⟨⟨rfl, rfl, rfl, rfl⟩,
    ⟨exec_allOn_zero s, exec_allOff_zero s, exec_setOdd_zero s, exec_setEven_zero s⟩, fun z hz i hi => ?_⟩
  have hresp : instrResp i = some .badArg := by
    simp only [List.mem_cons, List.not_mem_nil, or_false] at hi
    obtain rfl | rfl | rfl | rfl := hi <;> exact congrArg some (operandResp_formZ_nonzero hz)
  exact exec_rejects (by decide) hresp

end Sys2Proof.Machine

/-! ## Proofs: pattern selection (41_selection.md)

What an accepted selection command leaves is said once for each; a rejected one is an instance of `exec_rejects`. The
frame holds of both: a selection command writes `SEL` and the outputs of the step at most. -/

namespace Sys2Proof.Machine

variable {s t : State}

/-! ### The accepted selection commands -/

/-- A legal pattern number is kept by its write to the three bits of `SEL` (R100). -/
theorem setWidth_toNat_of_legal {n : Nibble} (hn : n.toNat ≤ 4) : (n.setWidth 3 : Sel).toNat = n.toNat :=
  (BitVec.toNat_setWidth 3 n).trans (Nat.mod_eq_of_lt (by omega))

/-- SELECT of a legal pattern number writes `SEL`, pulses its source and answers OK. -/
theorem exec_select_legal {n : Nibble} (hn : 1 ≤ n.toNat ∧ n.toNat ≤ 4) (s : State) :
    exec (.select n) s = .next { s with
      regs := { s.regs with sel := n.setWidth 3 }
      outputs := { tmrStart := 0b0001#4 <<< (n.toNat - 1), resp := some .ok } } := by
  rw [exec_select, formN_legal hn, onOperand_ok, lowBits_eq, onehot4_eq_shift n hn.1 hn.2]
  rfl

theorem exec_stopAll_zero (s : State) : exec (.stopAll 0) s = .next { s with
    regs := { s.regs with sel := 0 }, outputs := { tmrStart := 0b0000, resp := some .ok } } := rfl

/-- With a legal pattern number in `SEL`, that source alone is enabled (R24). -/
theorem en_of_sel_eq {n : Nibble} (hn : 1 ≤ n.toNat ∧ n.toNat ≤ 4) (h : s.regs.sel = n.setWidth 3) :
    s.en = 0b0001#4 <<< (n.toNat - 1) := by
  rw [State.en, h, setWidth_toNat_of_legal hn.2, onehot4_eq_shift n hn.1 hn.2]

/-! ### The frame -/

/-- `t` is `s` with another `SEL` and other outputs at most. -/
def WritesSel (s t : State) : Prop := ∃ v o, t = { s with regs := { s.regs with sel := v }, outputs := o }

/-- A command writes `SEL` at most if its action does: rejected, it writes no element. -/
theorem onOperand_writesSel {α : Type} {o : Except Resp α} {act : α → State → State}
    (h : onOperand o act s = .next t) (hact : ∀ a, WritesSel s.beginStep (act a s.beginStep)) : WritesSel s t := by
  obtain ⟨c, -, rfl⟩ | ⟨a, -, rfl⟩ := onOperand_cases h
  · exact ⟨s.regs.sel, _, rfl⟩
  · obtain ⟨v, o, ha⟩ := hact a
    exact ⟨v, { o with resp := some .ok }, by rw [ha]; rfl⟩

theorem exec_select_writesSel {n : Nibble} (h : exec (.select n) s = .next t) : WritesSel s t := by
  rw [exec_select] at h
  exact onOperand_writesSel h fun _ => ⟨_, _, rfl⟩

theorem exec_stopAll_writesSel {z : Nibble} (h : exec (.stopAll z) s = .next t) : WritesSel s t := by
  rw [exec_stopAll] at h
  exact onOperand_writesSel h fun _ => ⟨_, _, rfl⟩

/-! ### The obligations -/

/-- Settles O20: by `exec_select_legal`, and `EN` and `tmr_run` follow `SEL`; form N rejects every other operand. -/
theorem selectCommand : Obligations.SelectCommand := by
  intro n s
  refine ⟨fun hn => ⟨congrArg Event.cmd (select_word n), _, exec_select_legal hn s, rfl,
    setWidth_toNat_of_legal hn.2, en_of_sel_eq hn rfl, en_of_sel_eq hn rfl⟩, fun hn => ?_⟩
  exact exec_rejects (by decide) (congrArg (some ∘ operandResp) (formN_illegal hn))

/-- Settles O22: what writes `SEL` and the outputs at most leaves the rest, and the lines follow `OUT`. -/
theorem selectionFrame : Obligations.SelectionFrame := by
  intro i s hi
  obtain ⟨t, ht⟩ := exec_next i s
  have hsel : WritesSel s t := by
    obtain ⟨n, rfl⟩ | ⟨z, rfl⟩ := hi
    · exact exec_select_writesSel ht
    · exact exec_stopAll_writesSel ht
  obtain ⟨v, o, rfl⟩ := hsel
  exact ⟨_, ht, rfl, rfl, rfl, rfl, rfl, rfl, rfl, rfl, rfl⟩

/-- Settles O21: with 0 in `SEL` no source is enabled and every tick vector is dropped; form Z rejects every other
operand. -/
theorem stopAllCommand : Obligations.StopAllCommand := by
  intro z s
  refine ⟨fun hz => ?_, fun hz => exec_rejects (by decide) (congrArg some (operandResp_formZ_nonzero hz))⟩
  subst hz
  exact ⟨rfl, _, exec_stopAll_zero s, rfl, rfl, rfl, fun v => runEvent_tick_dropped (.inl rfl)⟩

end Sys2Proof.Machine

/-! ## Proofs: rendering (42_render.md)

What an accepted tick does to the six elements is one function of them, `renderRegs`, and runs of ticks are its
iterates. That CNTW cannot be observed is a simulation between a machine and the same machine with another CNTW and
other counters, kept by every step. -/

namespace Sys2Proof.Machine

variable {s t : State}

/-! ### Flags, counters and masks -/

/-- Counting up twice is counting up from the next number: the inner wrap does not show. -/
theorem countUp_countUp (w c : Nat) : countUp w (countUp w c) = countUp w (c + 1) := Nat.mod_add_mod (c + 1) _ 1

/-- Counters that agree modulo 4 show one mask of pattern 3 (R123). -/
theorem maskUp_congr {c d : Nat} (h : c % 4 = d % 4) : maskUp c = maskUp d := by rw [maskUp, h, maskUp]

/-- Counters that agree modulo 4 show one mask of pattern 4 (R124). -/
theorem maskDown_congr {c d : Nat} (h : c % 4 = d % 4) : maskDown c = maskDown d := by rw [maskDown, h, maskDown]

theorem maskUp_ne_zero (c : Nat) : maskUp c ≠ 0 := by
  have single : ∀ i < 4, 0b0001#4 <<< i ≠ 0 := by decide
  exact single _ (Nat.mod_lt c (by decide))

theorem maskDown_ne_zero (c : Nat) : maskDown c ≠ 0 := by
  have single : ∀ i < 4, 0b1000#4 >>> i ≠ 0 := by decide
  exact single _ (Nat.mod_lt c (by decide))

/-- Counting up reads a counter modulo 4 only, in every legal width (R127). -/
theorem countUp_mod_four_of_mod {w : Nat} (hw : 2 ≤ w) (c : Nat) : countUp w c % 4 = (c % 4 + 1) % 4 := by
  rw [countUp_mod_four hw, Nat.mod_add_mod]

/-- Counters of any two legal widths that agree modulo 4 do so after they have counted up (R127). -/
theorem countUp_mod_four_congr {w w' c d : Nat} (hw : 2 ≤ w) (hw' : 2 ≤ w') (h : c % 4 = d % 4) :
    countUp w c % 4 = countUp w' d % 4 := by
  rw [countUp_mod_four_of_mod hw, countUp_mod_four_of_mod hw', h]

/-- A flag toggled `n` times is 0 exactly if it was 1 and `n` is odd, or it was 0 and `n` is even. -/
theorem toggle_iterate_eq_false_iff (f : Bool) (n : Nat) : toggle^[n] f = false ↔ (f = true ↔ n % 2 = 1) := by
  induction n with
  | zero => cases f <;> simp
  | succ n ih =>
    have hodd : (n + 1) % 2 = 1 ↔ ¬ n % 2 = 1 := by omega
    rw [Function.iterate_succ_apply', toggle, Bool.not_eq_false', ← Bool.not_eq_false, ih, hodd]
    exact not_iff.trans (not_iff_comm.trans iff_comm)

/-- What a toggled flag chooses, by the parity of its toggles. -/
theorem ite_toggle_iterate {α : Type} (f : Bool) (n : Nat) (a b : α) :
    (if toggle^[n] f = true then a else b) = if (f = true ↔ n % 2 = 1) then b else a := by
  by_cases h : f = true ↔ n % 2 = 1
  · rw [if_pos h, (toggle_iterate_eq_false_iff f n).2 h, if_neg (by decide)]
  · rw [if_neg h, if_pos (Bool.not_eq_false _ ▸ mt (toggle_iterate_eq_false_iff f n).1 h)]

/-! ### The gate -/

/-- A tick of source k that is not accepted changes nothing but the outputs of the step before. -/
theorem onTick_not_accepted {k : Sel} {v : Nibble} {render : State → State}
    (h : s.regs.sel ≠ k ∨ v.getLsbD (k.toNat - 1) = false) : onTick k.toNat v render s = .next s.quiet := by
  refine onTick_dropped (Bool.eq_false_iff.2 fun hacc => ?_)
  obtain ⟨hs, hv⟩ := tickAccepted_iff.1 hacc
  obtain h | h := h
  · exact h (BitVec.eq_of_toNat_eq hs)
  · exact absurd hv (by simp [h])

/-- What holds of the state that a dropped tick leaves and of the one that a rendered tick leaves holds after a tick. -/
theorem onTick_ends_in {k : Nat} {v : Nibble} {render : State → State} {P : State → Prop} (hdropped : P s.beginStep)
    (hrendered : P (render s.beginStep)) : ∃ t, onTick k v render s = .next t ∧ P t := by
  obtain ⟨t, ht⟩ := onTick_next k v render s
  obtain ⟨-, rfl⟩ | ⟨-, rfl⟩ := onTick_cases ht
  · exact ⟨_, ht, hrendered⟩
  · exact ⟨_, ht, hdropped⟩

/-- A step on a vector that has the bit of its TICK row, with the row's pattern selected, is that TICK instruction. -/
theorem step_of_ownTick {i : Instr} (hf : i.format = .tick) (hi : i.Encodable)
    (hnext : s.nextEvent = (some i.encode, t)) (hsel : t.regs.sel = i.ownSel) : step s = exec i t :=
  stepRunsTheDecodedInstruction s t i.encode i hnext (hsel ▸ decode_encode_of_tick hi hf)

/-! ### What an accepted tick does to the elements -/

/-- The elements after a tick of the selected pattern (R121 to R124). -/
def renderRegs (cntw : Nat) (r : Regs) : Regs :=
  match r.sel.toNat with
  | 1 => { r with f1 := toggle r.f1, out := if toggle r.f1 = true then 0b0000 else 0b1111 }
  | 2 => { r with f2 := toggle r.f2, out := if toggle r.f2 = true then 0b1010 else 0b0101 }
  | 3 => { r with out := maskUp r.c3, c3 := countUp cntw r.c3 }
  | 4 => { r with out := maskDown r.c4, c4 := countUp cntw r.c4 }
  | _ => r

section RenderRegs

variable {r : Regs} {w : Nat}

theorem renderRegs_one (h : r.sel = 1) : renderRegs w r =
    { r with f1 := toggle r.f1, out := if toggle r.f1 = true then 0b0000 else 0b1111 } := by simp [renderRegs, h]

theorem renderRegs_two (h : r.sel = 2) : renderRegs w r =
    { r with f2 := toggle r.f2, out := if toggle r.f2 = true then 0b1010 else 0b0101 } := by simp [renderRegs, h]

theorem renderRegs_three (h : r.sel = 3) : renderRegs w r =
    { r with out := maskUp r.c3, c3 := countUp w r.c3 } := by simp [renderRegs, h]

theorem renderRegs_four (h : r.sel = 4) : renderRegs w r =
    { r with out := maskDown r.c4, c4 := countUp w r.c4 } := by simp [renderRegs, h]

/-- A render does not write `SEL` (R125). -/
theorem renderRegs_sel (w : Nat) (r : Regs) : (renderRegs w r).sel = r.sel := by
  unfold renderRegs
  split <;> rfl

/-! ### Runs of renders -/

/-- Ticks of pattern 1 toggle `F1` each time, and the picture is that of the last toggle. -/
theorem renderRegs_iterate_one (h : r.sel = 1) (n : Nat) : (renderRegs w)^[n + 1] r =
    { r with f1 := toggle^[n + 1] r.f1, out := if toggle^[n + 1] r.f1 = true then 0b0000 else 0b1111 } := by
  induction n with
  | zero => exact renderRegs_one h
  | succ n ih =>
    rw [Function.iterate_succ_apply', ih, renderRegs_one (by exact h), Function.iterate_succ_apply' toggle (n + 1)]

/-- Ticks of pattern 2 toggle `F2` each time, and the picture is that of the last toggle. -/
theorem renderRegs_iterate_two (h : r.sel = 2) (n : Nat) : (renderRegs w)^[n + 1] r =
    { r with f2 := toggle^[n + 1] r.f2, out := if toggle^[n + 1] r.f2 = true then 0b1010 else 0b0101 } := by
  induction n with
  | zero => exact renderRegs_two h
  | succ n ih =>
    rw [Function.iterate_succ_apply', ih, renderRegs_two (by exact h), Function.iterate_succ_apply' toggle (n + 1)]

/-- `n+1` ticks of pattern 3 show the mask of the counter plus `n`, in every legal width. -/
theorem renderRegs_iterate_three (hw : 2 ≤ w) (h : r.sel = 3) (n : Nat) : (renderRegs w)^[n + 1] r =
    { r with out := maskUp (r.c3 + n), c3 := countUp w (r.c3 + n) } := by
  induction n with
  | zero => exact renderRegs_three h
  | succ n ih =>
    rw [Function.iterate_succ_apply', ih, renderRegs_three (by exact h), maskUp_congr (countUp_mod_four hw _),
      countUp_countUp, Nat.add_assoc]

/-- `n+1` ticks of pattern 4 show the mask of the counter plus `n`, in every legal width. -/
theorem renderRegs_iterate_four (hw : 2 ≤ w) (h : r.sel = 4) (n : Nat) : (renderRegs w)^[n + 1] r =
    { r with out := maskDown (r.c4 + n), c4 := countUp w (r.c4 + n) } := by
  induction n with
  | zero => exact renderRegs_four h
  | succ n ih =>
    rw [Function.iterate_succ_apply', ih, renderRegs_four (by exact h), maskDown_congr (countUp_mod_four hw _),
      countUp_countUp, Nat.add_assoc]

end RenderRegs

/-- An accepted tick renders the selected pattern and changes no other part of the machine (R120, R125). -/
theorem runEvent_tick_accepted {v : Nibble} (hsel : s.regs.sel ≠ 0) (hv : v.getLsbD (s.regs.sel.toNat - 1) = true) :
    runEvent (.tick v) s = .next { s.quiet with regs := renderRegs s.par.cntw s.regs } := by
  obtain ⟨t, ht⟩ := runEvent_next (.tick v) s
  rw [ht]
  obtain ⟨⟨⟩, -⟩ | ⟨w, ⟨⟩, -⟩ | ⟨_, ⟨⟩, hdrop, -⟩ | ⟨-, -, hk, -, rfl⟩ | ⟨-, -, hk, -, rfl⟩ | ⟨-, -, hk, -, rfl⟩ |
    ⟨-, -, hk, -, rfl⟩ := runEvent_cases ht
  · exact absurd hdrop (not_or.2 ⟨hsel, by simp [hv]⟩)
  · rw [render1_eq, renderRegs_one hk]; rfl
  · rw [render2_eq, renderRegs_two hk]; rfl
  · rw [render3_eq, renderRegs_three hk]; rfl
  · rw [render4_eq, renderRegs_four hk]; rfl

/-- A run of accepted ticks of the selected pattern k renders it once a tick. -/
theorem steps_acceptedTicks_regs {v : Nibble} {k : Sel} (hk : k ≠ 0) (hv : v.getLsbD (k.toNat - 1) = true) (n : Nat) :
    ∀ s : State, s.pending = List.replicate n (.tick v) → s.regs.sel = k →
      ∃ t, steps n s = .next t ∧ t.regs = (renderRegs s.par.cntw)^[n] s.regs := by
  induction n with
  | zero => exact fun s _ _ => ⟨s, rfl, rfl⟩
  | succ n ih =>
    rintro s hs rfl
    rw [steps_succ n ((step_pending hs).trans (runEvent_tick_accepted hk hv)), Function.iterate_succ_apply]
    exact ih _ rfl (renderRegs_sel _ _)

/-! ### The Mealy table -/

/-- Each row of R126 is a toggle with its picture, or a count modulo 4 with its mask. -/
theorem mealyTable_rows : ∀ row ∈ mealyTable,
    (row.pattern = 1 ∧ ∀ f : Bool, f.toNat = row.before →
      (toggle f).toNat = row.after ∧ (if toggle f = true then 0b0000 else 0b1111) = row.mask) ∨
    (row.pattern = 2 ∧ ∀ f : Bool, f.toNat = row.before →
      (toggle f).toNat = row.after ∧ (if toggle f = true then 0b1010 else 0b0101) = row.mask) ∨
    (row.pattern = 3 ∧ (row.before + 1) % 4 = row.after ∧ maskUp row.before = row.mask) ∨
    (row.pattern = 4 ∧ (row.before + 1) % 4 = row.after ∧ maskDown row.before = row.mask) := by decide

/-- A render takes the transition of its row and writes the row's mask. -/
theorem renderRegs_mealy {row : MealyRow} {r : Regs} {w : Nat} (hrow : row ∈ mealyTable) (hw : 2 ≤ w)
    (hsel : r.sel.toNat = row.pattern) (hstate : r.patternState row.pattern = row.before) :
    (renderRegs w r).patternState row.pattern = row.after ∧ (renderRegs w r).out = row.mask := by
  obtain ⟨hp, hflag⟩ | ⟨hp, hflag⟩ | ⟨hp, hafter, hmask⟩ | ⟨hp, hafter, hmask⟩ := mealyTable_rows row hrow <;>
    rw [hp] at hsel hstate ⊢
  · rw [renderRegs_one (BitVec.eq_of_toNat_eq hsel)]
    exact hflag r.f1 hstate
  · rw [renderRegs_two (BitVec.eq_of_toNat_eq hsel)]
    exact hflag r.f2 hstate
  · rw [renderRegs_three (BitVec.eq_of_toNat_eq hsel), ← hafter, ← hmask, ← hstate]
    exact ⟨countUp_mod_four_of_mod hw r.c3, maskUp_congr (Nat.mod_mod r.c3 4).symm⟩
  · rw [renderRegs_four (BitVec.eq_of_toNat_eq hsel), ← hafter, ← hmask, ← hstate]
    exact ⟨countUp_mod_four_of_mod hw r.c4, maskDown_congr (Nat.mod_mod r.c4 4).symm⟩

/-! ### A machine with another CNTW -/

/-- The machine with another CNTW and other counters. -/
def State.withCounters (w c d : Nat) (s : State) : State :=
  { s with par := { s.par with cntw := w }, regs := { s.regs with c3 := c, c4 := d } }

/-- Two machines are related by R127 exactly if one is the other with another legal CNTW and counters equal modulo 4. -/
theorem sameButCounterWidth_iff : SameButCounterWidth s t ↔
    t.par.Ok ∧ ∃ w c d, 2 ≤ w ∧ c % 4 = t.regs.c3 % 4 ∧ d % 4 = t.regs.c4 % 4 ∧ s = t.withCounters w c d := by
  constructor
  · rintro ⟨hs, ht, hpar, hregs, hc, hd, hpending, hcycles, houtputs⟩
    refine ⟨ht, s.par.cntw, s.regs.c3, s.regs.c4, hs, hc, hd, ?_⟩
    rw [State.withCounters, ← hpar, ← hregs, ← hpending, ← hcycles, ← houtputs]
  · rintro ⟨ht, w, c, d, hw, hc, hd, rfl⟩
    exact ⟨hw, ht, rfl, rfl, hc, hd, rfl, rfl, rfl⟩

/-- A command performed or rejected does so with another CNTW too, if its action does not read the counters. -/
theorem onOperand_withCounters {α : Type} {o : Except Resp α} {act : α → State → State} {w c d : Nat}
    (h : onOperand o act s = .next t)
    (hact : ∀ a u, act a (State.withCounters w c d u) = (act a u).withCounters w c d) :
    onOperand o act (s.withCounters w c d) = .next (t.withCounters w c d) := by
  obtain ⟨e, rfl, rfl⟩ | ⟨a, rfl, rfl⟩ := onOperand_cases h
  · rfl
  · exact congrArg (fun u : State => Host.Outcome.next (u.respond .ok)) (hact a s.beginStep)

/-- No command reads CNTW or a counter. -/
theorem exec_command_withCounters {i : Instr} {w c d : Nat} (hi : i.format = .cmd) (h : exec i s = .next t) :
    exec i (s.withCounters w c d) = .next (t.withCounters w c d) := by
  cases i with
  | select n => rw [exec_select] at h ⊢; exact onOperand_withCounters h fun _ _ => rfl
  | stopAll z => rw [exec_stopAll] at h ⊢; exact onOperand_withCounters h fun _ _ => rfl
  | allOn z => rw [exec_allOn] at h ⊢; exact onOperand_withCounters h fun _ _ => rfl
  | allOff z => rw [exec_allOff] at h ⊢; exact onOperand_withCounters h fun _ _ => rfl
  | setOdd z => rw [exec_setOdd] at h ⊢; exact onOperand_withCounters h fun _ _ => rfl
  | setEven z => rw [exec_setEven] at h ⊢; exact onOperand_withCounters h fun _ _ => rfl
  | wrmask m => rw [exec_wrmask] at h ⊢; exact onOperand_withCounters h fun _ _ => rfl
  | setbit a => rw [exec_setbit] at h ⊢; exact onOperand_withCounters h fun _ _ => rfl
  | clrbit a => rw [exec_clrbit] at h ⊢; exact onOperand_withCounters h fun _ _ => rfl
  | reserved0 r => rw [exec_reserved0] at h ⊢; exact onOperand_withCounters h fun _ _ => rfl
  | reservedAB r => rw [exec_reservedAB] at h ⊢; exact onOperand_withCounters h fun _ _ => rfl
  | reservedCF r => rw [exec_reservedCF] at h ⊢; exact onOperand_withCounters h fun _ _ => rfl
  | tick1 v => cases hi
  | tick2 v => cases hi
  | tick3 v => cases hi
  | tick4 v => cases hi

/-- Renders of two legal widths keep counters that agree modulo 4, and leave all other elements equal (R127). -/
theorem renderRegs_withCounters {r : Regs} {w w' c d : Nat} (hw : 2 ≤ w) (hw' : 2 ≤ w') (hc : c % 4 = r.c3 % 4)
    (hd : d % 4 = r.c4 % 4) : ∃ c' d', c' % 4 = (renderRegs w' r).c3 % 4 ∧ d' % 4 = (renderRegs w' r).c4 % 4 ∧
      renderRegs w { r with c3 := c, c4 := d } = { renderRegs w' r with c3 := c', c4 := d' } := by
  unfold renderRegs
  dsimp only
  split
  · exact ⟨c, d, hc, hd, rfl⟩
  · exact ⟨c, d, hc, hd, rfl⟩
  · exact ⟨countUp w c, d, countUp_mod_four_congr hw hw' hc, hd, by rw [maskUp_congr hc]⟩
  · exact ⟨c, countUp w d, hc, countUp_mod_four_congr hw hw' hd, by rw [maskDown_congr hd]⟩
  · exact ⟨c, d, hc, hd, rfl⟩

/-- Every event keeps two machines related. -/
theorem runEvent_sameButCounterWidth {e : Event} {t' : State} (h : SameButCounterWidth s t)
    (ht : runEvent e t = .next t') : ∃ s', runEvent e s = .next s' ∧ SameButCounterWidth s' t' := by
  obtain ⟨hok, w, c, d, hw, hc, hd, rfl⟩ := sameButCounterWidth_iff.1 h
  obtain ⟨hpar, -, -⟩ := runEvent_keeps ht
  have hok' : t'.par.Ok := by rwa [hpar]
  cases e with
  | reset =>
    obtain rfl := Host.Outcome.next.inj ht
    exact ⟨_, rfl, sameButCounterWidth_iff.2 ⟨hok', w, 0, 0, hw, rfl, rfl, rfl⟩⟩
  | cmd word =>
    obtain ⟨-, -, hc3, hc4⟩ := command_samePatternState ht
    rw [← hc3] at hc
    rw [← hc4] at hd
    exact ⟨_, exec_command_withCounters (decodeCmd_format word) ht,
      sameButCounterWidth_iff.2 ⟨hok', w, c, d, hw, hc, hd, rfl⟩⟩
  | tick v =>
    by_cases hdrop : t.regs.sel = 0 ∨ v.getLsbD (t.regs.sel.toNat - 1) = false
    · obtain rfl := Host.Outcome.next.inj ((runEvent_tick_dropped hdrop).symm.trans ht)
      exact ⟨_, runEvent_tick_dropped (by exact hdrop), sameButCounterWidth_iff.2 ⟨hok', w, c, d, hw, hc, hd, rfl⟩⟩
    · obtain ⟨hsel, hv⟩ := not_or.1 hdrop
      have hv := (Bool.not_eq_false _).mp hv
      obtain rfl := Host.Outcome.next.inj ((runEvent_tick_accepted hsel hv).symm.trans ht)
      obtain ⟨c', d', hc', hd', hregs⟩ := renderRegs_withCounters hw hok hc hd
      refine ⟨_, runEvent_tick_accepted (by exact hsel) (by exact hv),
        sameButCounterWidth_iff.2 ⟨hok', w, c', d', hw, hc', hd', ?_⟩⟩
      simp only [State.withCounters, ← hregs]

/-- Every step keeps two machines related, which then wait for the same inputs. -/
theorem step_sameButCounterWidth {t' : State} (h : SameButCounterWidth s t) (ht : step t = .next t') :
    ∃ s', step s = .next s' ∧ SameButCounterWidth s' t' := by
  obtain ⟨hok, w, c, d, hw, hc, hd, rfl⟩ := sameButCounterWidth_iff.1 h
  obtain ⟨hpar, hregs, -⟩ := nextEvent_keeps t
  have hnext := nextEvent_commutes (State.withCounters w c d) (fun _ _ _ => rfl) t
  rcases hn : t.nextEvent with ⟨e, u⟩
  rw [hn] at hpar hregs hnext
  rw [← hregs] at hc hd
  have hok : u.par.Ok := by rwa [hpar]
  cases e with
  | none =>
    obtain rfl := Host.Outcome.next.inj ((step_of_noEvent hn).symm.trans ht)
    exact ⟨_, step_of_noEvent hnext, sameButCounterWidth_iff.2 ⟨hok, w, c, d, hw, hc, hd, rfl⟩⟩
  | some e =>
    rw [step_of_event hn] at ht
    rw [step_of_event hnext]
    exact runEvent_sameButCounterWidth (sameButCounterWidth_iff.2 ⟨hok, w, c, d, hw, hc, hd, rfl⟩) ht

/-- Two related machines show the same lines, timer controls and outputs of the step. -/
theorem observables_of_sameButCounterWidth (h : SameButCounterWidth s t) :
    s.line = t.line ∧ s.tmrRun = t.tmrRun ∧ s.outputs = t.outputs := by
  obtain ⟨-, w, c, d, -, -, -, rfl⟩ := sameButCounterWidth_iff.1 h
  exact ⟨rfl, rfl, rfl⟩

/-! ### The obligations -/

/-- Settles O53, by induction on the number of steps: the relation is a simulation, and related machines look the
same. -/
theorem counterWidthIsNotObservable : Obligations.CounterWidthIsNotObservable := by
  intro n
  induction n with
  | zero => exact fun s t h => ⟨s, t, rfl, rfl, h, observables_of_sameButCounterWidth h⟩
  | succ n ih =>
    intro s t h
    obtain ⟨t', ht⟩ := step_next t
    obtain ⟨s', hs, h'⟩ := step_sameButCounterWidth h ht
    rw [steps_succ n hs, steps_succ n ht]
    exact ih s' t' h'

/-- Settles O26: an accepted vector decodes to its TICK row, a dropped one changes nothing, and no tick pulses a source
or is answered. -/
theorem ticksPassOnlyTheGate : Obligations.TicksPassOnlyTheGate := by
  intro s t v hnext
  refine ⟨fun hsel hv => step_of_ownTick (i := .tick1 v) rfl (FormCheck.unless_ne_some_self_iff.2 hv) hnext hsel,
    fun hsel hv => step_of_ownTick (i := .tick2 v) rfl (FormCheck.unless_ne_some_self_iff.2 hv) hnext hsel,
    fun hsel hv => step_of_ownTick (i := .tick3 v) rfl (FormCheck.unless_ne_some_self_iff.2 hv) hnext hsel,
    fun hsel hv => step_of_ownTick (i := .tick4 v) rfl (FormCheck.unless_ne_some_self_iff.2 hv) hnext hsel,
    fun hdrop => (step_of_event hnext).trans (runEvent_tick_dropped hdrop), ?_⟩
  obtain ⟨u, hu⟩ := runEvent_next (.tick v) t
  obtain ⟨-, hout⟩ := tick_frame hu
  exact ⟨u, (step_of_event hnext).trans hu, hout⟩

/-- Settles O27: by the gate, and `render1_eq`. -/
theorem tick1BlinksAll : Obligations.Tick1BlinksAll := by
  intro v s
  refine ⟨fun hsel hv => ?_, onTick_not_accepted (k := 1)⟩
  rw [exec_tick1, onTick_accepted (k := 1) (tickAccepted_iff.2 ⟨congrArg BitVec.toNat hsel, hv⟩), render1_eq]
  rfl

/-- Settles O28: by the gate, and `render2_eq`. -/
theorem tick2AlternatesOddEven : Obligations.Tick2AlternatesOddEven := by
  intro v s
  refine ⟨fun hsel hv => ?_, onTick_not_accepted (k := 2)⟩
  rw [exec_tick2, onTick_accepted (k := 2) (tickAccepted_iff.2 ⟨congrArg BitVec.toNat hsel, hv⟩), render2_eq]
  rfl

/-- Settles O29: by the gate, and `render3_eq`; the mask is a single bit by `maskUp_ne_zero`. -/
theorem tick3RotatesUp : Obligations.Tick3RotatesUp := by
  intro v s
  refine ⟨fun hsel hv => ⟨?_, maskUp_ne_zero s.regs.c3⟩, onTick_not_accepted (k := 3)⟩
  rw [exec_tick3, onTick_accepted (k := 3) (tickAccepted_iff.2 ⟨congrArg BitVec.toNat hsel, hv⟩), render3_eq]
  rfl

/-- Settles O30: by the gate, and `render4_eq`; the mask is a single bit by `maskDown_ne_zero`. -/
theorem tick4RotatesDown : Obligations.Tick4RotatesDown := by
  intro v s
  refine ⟨fun hsel hv => ⟨?_, maskDown_ne_zero s.regs.c4⟩, onTick_not_accepted (k := 4)⟩
  rw [exec_tick4, onTick_accepted (k := 4) (tickAccepted_iff.2 ⟨congrArg BitVec.toNat hsel, hv⟩), render4_eq]
  rfl

/-- Settles O31: a dropped tick changes no element, and a rendered one those of its render's equation. -/
theorem renderFrame : Obligations.RenderFrame := by
  intro v s
  refine ⟨onTick_ends_in ⟨rfl, rfl, rfl⟩ ?_, onTick_ends_in ⟨rfl, rfl, rfl⟩ ?_, onTick_ends_in ⟨rfl, rfl, rfl⟩ ?_,
    onTick_ends_in ⟨rfl, rfl, rfl⟩ ?_⟩
  · rw [render1_eq]; exact ⟨rfl, rfl, rfl⟩
  · rw [render2_eq]; exact ⟨rfl, rfl, rfl⟩
  · rw [render3_eq]; exact ⟨rfl, rfl, rfl⟩
  · rw [render4_eq]; exact ⟨rfl, rfl, rfl⟩

/-- Settles O32: a row's pattern is selected, so its tick is accepted, and the render follows the row. -/
theorem rendersFollowTheMealyTable : Obligations.RendersFollowTheMealyTable := by
  intro row hrow v s hok hsel hv hstate
  have hpos : ∀ row ∈ mealyTable, row.pattern ≠ 0 := by decide
  have hne : s.regs.sel ≠ 0 := fun h => hpos row hrow (hsel.symm.trans (congrArg BitVec.toNat h))
  exact ⟨_, runEvent_tick_accepted hne (by rwa [hsel]), renderRegs_mealy hrow hok hsel hstate⟩

/-- Settles O36: by the iterates of the two rotations. -/
theorem rotationsAdvanceOnePlaceATick : Obligations.RotationsAdvanceOnePlaceATick := by
  intro n v s hok hpending
  refine ⟨fun hsel hv => ?_, fun hsel hv => ?_⟩
  · obtain ⟨t, ht, hregs⟩ := steps_acceptedTicks_regs (by decide) hv (n + 1) s hpending hsel
    rw [renderRegs_iterate_three hok hsel] at hregs
    exact ⟨t, ht, by rw [hregs]; rfl, by rw [hregs]; rfl⟩
  · obtain ⟨t, ht, hregs⟩ := steps_acceptedTicks_regs (by decide) hv (n + 1) s hpending hsel
    rw [renderRegs_iterate_four hok hsel] at hregs
    exact ⟨t, ht, by rw [hregs]; rfl, by rw [hregs]; rfl⟩

/-- Settles O37: by the iterates of the two toggles, and the parity of an iterated toggle. -/
theorem toggleParityForBothSeeds : Obligations.ToggleParityForBothSeeds := by
  intro n v s hpending
  refine ⟨fun hreset hv => ?_, fun hreset hv => ?_⟩
  · have hsel : s.regs.sel = 1 := by rw [hreset]
    have hseed : s.regs.f1 = s.par.seed1 := by rw [hreset]; rfl
    obtain ⟨t, ht, hregs⟩ := steps_acceptedTicks_regs (by decide) hv (n + 1) s hpending hsel
    rw [renderRegs_iterate_one hsel, hseed, ite_toggle_iterate] at hregs
    exact ⟨t, ht, by rw [hregs]⟩
  · have hsel : s.regs.sel = 2 := by rw [hreset]
    have hseed : s.regs.f2 = s.par.seed2 := by rw [hreset]; rfl
    obtain ⟨t, ht, hregs⟩ := steps_acceptedTicks_regs (by decide) hv (n + 1) s hpending hsel
    rw [renderRegs_iterate_two hsel, hseed, ite_toggle_iterate] at hregs
    exact ⟨t, ht, by rw [hregs]⟩

end Sys2Proof.Machine

/-! ## Proofs: responses and events that come together (60_exceptions.md)

Every command word is answered with the table's code, a rejected one changes nothing but the outputs, and of a tick
vector only the bit of the pattern that is selected when the tick step begins counts. -/

namespace Sys2Proof.Machine

/-! ### The response codes -/

/-- The code of a word's response (R141): by the opcode, and by the operand's legality for a legal opcode. -/
theorem expectedResponse_code (w : CmdWord) : (expectedResponse w).code =
    if w.toNat / 16 = 0 ∨ 10 ≤ w.toNat / 16 then 0b10#2
    else if w.toNat / 16 = 1 then (if 1 ≤ w.toNat % 16 ∧ w.toNat % 16 ≤ 4 then 0b00#2 else 0b01#2)
    else if (decodeCmd w).WellFormed then 0b00#2 else 0b11#2 := by
  by_cases hop : w.toNat / 16 = 0 ∨ 10 ≤ w.toNat / 16
  · rw [if_pos hop]
    exact congrArg Resp.code (if_pos hop)
  rw [if_neg hop]
  by_cases hsel : w.toNat / 16 = 1
  · simp only [expectedResponse, if_neg hop, if_pos hsel]
    exact apply_ite Resp.code _ _ _
  rw [if_neg hsel]
  by_cases hw : (decodeCmd w).WellFormed
  · rw [if_pos hw, (wellFormed_iff_expectedResponse_ok w).1 hw]
    rfl
  · have hresp := mt (wellFormed_iff_expectedResponse_ok w).2 hw
    rw [if_neg hw, expectedResponse_of_illegal (by omega) (by omega) hresp, if_neg hsel]
    rfl

/-! ### A tick and a SELECT in one cycle -/

/-- The vector of source n alone has some bit. -/
theorem singleTick_ne_zero : ∀ n : Nibble, 1 ≤ n.toNat → n.toNat ≤ 4 → 0b0001#4 <<< (n.toNat - 1) ≠ 0#4 := by decide

/-- The vector of source n alone lacks the bit of every other pattern. -/
theorem singleTick_bit_of_other {k : Sel} {n : Nibble} (hk : k ≠ 0) (hn : 1 ≤ n.toNat) (h : k.toNat ≠ n.toNat) :
    (0b0001#4 <<< (n.toNat - 1)).getLsbD (k.toNat - 1) = false := by
  have hk0 : k.toNat ≠ 0 := fun h0 => hk (BitVec.eq_of_toNat_eq h0)
  refine Bool.eq_false_iff.2 fun hbit => ?_
  simp only [BitVec.getLsbD_shiftLeft, BitVec.getLsbD_one, Bool.and_eq_true, Bool.not_eq_true', decide_eq_true_eq,
    decide_eq_false_iff_not] at hbit
  omega

/-- What an accepted SELECT n does, as an event. -/
theorem runEvent_of_isSelect {n : Nibble} {e : Event} (h : IsSelect n e) (s : State) :
    runEvent e s = .next { s with
      regs := { s.regs with sel := n.setWidth 3 }
      outputs := { tmrStart := 0b0001#4 <<< (n.toNat - 1), resp := some .ok } } := by
  obtain ⟨h1, h4, rfl⟩ := h
  rw [runEvent, decodeCmd_select_word, exec_select_legal ⟨h1, h4⟩]

/-! ### The obligations -/

/-- Settles O7: a step is its event's effect, and every event goes on. -/
theorem everyStepCompletes : Obligations.EveryStepCompletes := step_next

/-- Settles O11: by `runEvent_resp` the response is that of the tables, whose codes are `expectedResponse_code`. -/
theorem everyCommandGetsItsResponse : Obligations.EveryCommandGetsItsResponse := by
  intro w s
  obtain ⟨t, ht⟩ := runEvent_next (.cmd w) s
  have hresp : t.outputs.resp = some (expectedResponse w) := runEvent_resp ht
  refine ⟨t, ht, ?_, ?_, expectedResponse_code w⟩
  · rw [State.respValid, hresp]
    rfl
  · rw [State.respCode, hresp]
    rfl

/-- Settles O12: an ill-formed command is an illegal word, which the tables answer with another code than OK, and such an
answer rejects. -/
theorem rejectedCommandChangesNothing : Obligations.RejectedCommandChangesNothing := by
  intro i s hcmd hi
  obtain ⟨w, hw⟩ := encode_of_command hcmd
  obtain rfl := decodeCmd_of_encode hw
  have hresp := mt (wellFormed_iff_expectedResponse_ok w).2 hi
  exact ⟨expectedResponse w, s.reject (expectedResponse w), hresp, exec_rejects hresp (instrResp_decodeCmd w),
    rfl, rfl, rfl⟩

/-- Settles O33: both vectors are dropped, or both render the selected pattern. -/
theorem onlyTheSelectedTickBitCounts : Obligations.OnlyTheSelectedTickBitCounts := by
  intro s v v' hagree
  by_cases hsel : s.regs.sel = 0
  · exact ⟨_, runEvent_tick_dropped (.inl hsel), runEvent_tick_dropped (.inl hsel)⟩
  have hbit := hagree hsel
  cases hv : v.getLsbD (s.regs.sel.toNat - 1) with
  | false => exact ⟨_, runEvent_tick_dropped (.inr hv), runEvent_tick_dropped (.inr (hbit ▸ hv))⟩
  | true => exact ⟨_, runEvent_tick_accepted hsel hv, runEvent_tick_accepted hsel (hbit ▸ hv)⟩

/-- Settles O46: the tick step comes first and meets the old `SEL`, whose bit the vector lacks; SELECT then writes `SEL`
alone. -/
theorem tickOfTheStartedPatternIsDropped : Obligations.TickOfTheStartedPatternIsDropped := by
  intro s c cs n hp hc hrst hcmd hselect hother htick
  have ⟨h1, h4, _⟩ := hselect
  have hne : c.tick ≠ 0#4 := htick ▸ singleTick_ne_zero n h1 h4
  have hdrop : s.regs.sel = 0 ∨ c.tick.getLsbD (s.regs.sel.toNat - 1) = false :=
    or_iff_not_imp_left.2 fun hsel => htick ▸ singleTick_bit_of_other hsel h1 hother
  obtain ⟨t, u, hst, htu, ht, hu, -, -⟩ := steps_of_cycle hp hc (by rw [events_of_tick hrst hne, if_pos hcmd])
  rw [runEvent_tick_dropped (by exact hdrop)] at ht
  rw [runEvent_of_isSelect hselect] at hu
  obtain rfl := Host.Outcome.next.inj ht
  obtain rfl := Host.Outcome.next.inj hu
  exact ⟨_, (steps_succ 1 hst).trans (steps_succ 0 htu), rfl⟩

end Sys2Proof.Machine

/-! ## Proofs: reset and hazards (70_reset_and_hazards.md)

Reset sets every element from the parameters alone. Between resets a flag or counter is written by its own render only,
and a render computes all four lines from its flag or counter, never from the lines before it. -/

namespace Sys2Proof.Machine

variable {s t : State}

/-! ### Who writes a flag or counter -/

/-- The event is a tick vector that the gate accepts for pattern k (R120). -/
def IsAcceptedTick (k : Sel) (s : State) (e : Event) : Prop :=
  s.regs.sel = k ∧ ∃ v, e = .tick v ∧ v.getLsbD (k.toNat - 1) = true

/-- An event other than reset keeps each flag and counter, or is an accepted tick of its pattern (R38, R163). -/
theorem runEvent_patternState {e : Event} (he : e ≠ .reset) (h : runEvent e s = .next t) :
    (t.regs.f1 = s.regs.f1 ∨ IsAcceptedTick 1 s e) ∧ (t.regs.f2 = s.regs.f2 ∨ IsAcceptedTick 2 s e) ∧
    (t.regs.c3 = s.regs.c3 ∨ IsAcceptedTick 3 s e) ∧ (t.regs.c4 = s.regs.c4 ∨ IsAcceptedTick 4 s e) := by
  obtain ⟨rfl, -⟩ | ⟨w, -, hw⟩ | ⟨-, -, -, rfl⟩ | ⟨v, hv, hk, hbit, rfl⟩ | ⟨v, hv, hk, hbit, rfl⟩ |
    ⟨v, hv, hk, hbit, rfl⟩ | ⟨v, hv, hk, hbit, rfl⟩ := runEvent_cases h
  · exact absurd rfl he
  · obtain ⟨hf1, hf2, hc3, hc4⟩ := command_samePatternState hw
    exact ⟨.inl hf1, .inl hf2, .inl hc3, .inl hc4⟩
  · exact ⟨.inl rfl, .inl rfl, .inl rfl, .inl rfl⟩
  · rw [render1_eq]; exact ⟨.inr ⟨hk, v, hv, hbit⟩, .inl rfl, .inl rfl, .inl rfl⟩
  · rw [render2_eq]; exact ⟨.inl rfl, .inr ⟨hk, v, hv, hbit⟩, .inl rfl, .inl rfl⟩
  · rw [render3_eq]; exact ⟨.inl rfl, .inl rfl, .inr ⟨hk, v, hv, hbit⟩, .inl rfl⟩
  · rw [render4_eq]; exact ⟨.inl rfl, .inl rfl, .inl rfl, .inr ⟨hk, v, hv, hbit⟩⟩

/-! ### A render does not read `OUT` -/

/-- The elements after a tick of the selected pattern do not depend on the lines before it (R172). -/
theorem renderRegs_withOut {r : Regs} (hsel : r.sel ≠ 0) (h4 : r.sel.toNat ≤ 4) (w : Nat) (o : Nibble) :
    renderRegs w { r with out := o } = renderRegs w r := by
  obtain hk | hk | hk | hk : r.sel = 1 ∨ r.sel = 2 ∨ r.sel = 3 ∨ r.sel = 4 := by bv_omega
  · rw [renderRegs_one hk, renderRegs_one (by exact hk)]
  · rw [renderRegs_two hk, renderRegs_two (by exact hk)]
  · rw [renderRegs_three hk, renderRegs_three (by exact hk)]
  · rw [renderRegs_four hk, renderRegs_four (by exact hk)]

/-! ### The obligations -/

/-- Settles O35: with either `OUT` the tick is accepted, and the render gives the same elements. -/
theorem renderOverwritesTheHostsPicture : Obligations.RenderOverwritesTheHostsPicture := by
  intro s o v hsel h4 hv
  refine ⟨_, runEvent_tick_accepted hsel hv, ?_⟩
  rw [runEvent_tick_accepted (by exact hsel) (by exact hv), renderRegs_withOut hsel h4]

/-- Settles O38: a step without an event changes no element, and one with an event changes what its event does. -/
theorem onlyOwnRenderOrResetChangesPatternState : Obligations.OnlyOwnRenderOrResetChangesPatternState := by
  intro s t h hno
  obtain ⟨-, hregs, -⟩ | ⟨e, u, he, hregs, -, hrun⟩ := step_event_cases h
  · rw [hregs]
    exact ⟨absurd rfl, absurd rfl, absurd rfl, absurd rfl⟩
  · rw [he] at hno ⊢
    simp only [Option.some.injEq, ← hregs]
    obtain ⟨hf1, hf2, hc3, hc4⟩ := runEvent_patternState (fun hr => hno (congrArg some hr)) hrun
    exact ⟨hf1.resolve_left, hf2.resolve_left, hc3.resolve_left, hc4.resolve_left⟩

/-- Settles O49: the step is the reset event; with `SEL` 0 no source is enabled and every tick is dropped, and the lines
show OUT_INIT by `line_bit`. -/
theorem resetSetsEveryElement : Obligations.ResetSetsEveryElement := by
  intro s t hnext
  refine ⟨t.resetEvent, step_of_event hnext, rfl, rfl, rfl, fun v => ?_, fun k h1 h4 => ?_⟩
  · exact runEvent_tick_dropped (.inl rfl)
  · exact line_bit t.resetEvent h1 h4

end Sys2Proof.Machine
